-- ==== Sys2Proof/Word.lean ====
section
/-! DEFINITION. The two word types of the block: every register is 8 bits wide (R11), every request is one 24-bit
command word (R100), a length or a transaction count is 16 bits held in two registers (R11). -/

namespace Sys2Proof

/-- One register, one program-memory byte, one payload byte (R11, R52, R87). -/
abbrev Byte := BitVec 8

/-- A 16-bit quantity, held in an `_H` and an `_L` register (R11, R83). -/
abbrev Half := BitVec 16

/-- A 24-bit command word `kind : req : arg` (R100). -/
abbrev Word24 := BitVec 24

end Sys2Proof
end

