-- ==== Sys2Proof/Config.lean ====
section
/-! DEFINITION. The configuration tuple `P` of R10: every value the source leaves open, as one record of plain data,
with the constraints of the parameter table of spec/92_eei_decisions.md (`Params.Ok`), and the small name types the
rules range over. The record is carried by the state (`State.params`), so that a statement about every state is a
statement about every value of the parameters (spec/93_implementation_defined.md part 2 asks for that). -/

namespace Sys2Proof

/-- The alternate setting: 0 = bulk, 1 = isochronous (R12, R34). It also names the endpoint and the FIFO in use. -/
inductive Alt where
  | bulk
  | iso
  deriving DecidableEq, Repr

/-- The USB-negotiated link speed (R64). -/
inductive Speed where
  | full
  | high
  deriving DecidableEq, Repr

/-- The two analog channels (R12). -/
inductive Channel where
  | ch0
  | ch1
  deriving DecidableEq, Repr

/-- The channel count: 1 or 2 (R34). -/
inductive ChannelCount where
  | one
  | two
  deriving DecidableEq, Repr

/-- The accepted voltage codes: exactly 1, 2, 5 and 10 (R130). -/
inductive VoltageCode where
  | v1
  | v2
  | v5
  | v10
  deriving DecidableEq, Repr

/-- `P.START_WHILE_RUNNING` in {Fault, Restart} (R213). -/
inductive StartPolicy where
  | fault
  | restart
  deriving DecidableEq, Repr

/-- A SampleRateProfile (R150): the identifier, the nominal rate in kSa/s, the interface timing byte, and the three
waveform words as 24 bytes. -/
structure Profile where
  id       : Byte
  rateKsps : Nat
  ifcfg    : Byte
  image    : Vector Byte 24
  deriving DecidableEq, Repr

/-- The configuration tuple `P` (R10), one field per parameter. Ranges that a type can carry are carried by it: a
3-bit switch field (`VR_FIELD`), a field position 0..5 (`CH_SHIFT`), a bit number 0..7 (`GATE_BIT`), a 7-bit packet
count (`PPM`). -/
structure Params where
  reqVolt0 : Byte
  reqVolt1 : Byte
  reqRate  : Byte
  reqAcq   : Byte
  reqNch   : Byte
  vrField1  : BitVec 3
  vrField2  : BitVec 3
  vrField5  : BitVec 3
  vrField10 : BitVec 3
  chShift0 : Fin 6
  chShift1 : Fin 6
  fifocfg1   : Byte
  fifocfg2   : Byte
  fifocfgOff : Byte
  frFirst  : Byte
  frSecond : Byte
  frThird  : Byte
  frClear  : Byte
  idleGateWait : Bool
  progMemBytes : Nat
  rateTable : List Profile
  abortVal : Byte
  tcStart  : Half
  trigBulk : Byte
  trigIso  : Byte
  pktendBulk : Byte
  pktendIso  : Byte
  epcfgBulkOn : Byte
  epcfgIsoOn  : Byte
  epcfgOff    : Byte
  pktLenFullBulk : Half
  pktLenFullIso  : Half
  pktLenHighBulk : Half
  pktLenHighIso  : Half
  ppmFull : BitVec 7
  ppmHigh : BitVec 7
  startWhileRunning : StartPolicy
  ledOnIdleConfig : Bool
  configLedTicks  : Nat
  switchReset : Byte
  gateBit : Fin 8
  /-- `P.SYNC_DELAY`, a duration in no stated unit, used by no rule (R320). -/
  syncDelay : Nat
  /-- `P.TICK_PERIOD`, a duration in no stated unit, used by no rule (R285). -/
  tickPeriod : Nat
  deriving DecidableEq, Repr

/-- The five request codes are distinct bytes (R101). -/
abbrev Params.CodesDistinct (P : Params) : Prop :=
  [P.reqVolt0, P.reqVolt1, P.reqRate, P.reqAcq, P.reqNch].Pairwise (· ≠ ·)

/-- The rate table (R151): unique identifiers, profile 1 at 1000 kSa/s, positive rates. -/
abbrev Params.TableOk (P : Params) : Prop :=
  P.rateTable.Pairwise (fun p q => p.id ≠ q.id) ∧
  (∃ p ∈ P.rateTable, p.id = 1 ∧ p.rateKsps = 1000) ∧
  (∀ p ∈ P.rateTable, 0 < p.rateKsps)

/-- The constraints the parameter table of spec/92_eei_decisions.md puts on `P`. -/
abbrev Params.Ok (P : Params) : Prop :=
  P.CodesDistinct ∧
  (P.chShift0.val + 3 ≤ P.chShift1.val ∨ P.chShift1.val + 3 ≤ P.chShift0.val) ∧
  P.fifocfg1 ≠ P.fifocfg2 ∧ P.fifocfg1 ≠ P.fifocfgOff ∧ P.fifocfg2 ≠ P.fifocfgOff ∧
  P.frFirst ≠ P.frClear ∧ P.frSecond ≠ P.frClear ∧ P.frThird ≠ P.frClear ∧
  120 ≤ P.progMemBytes ∧
  P.TableOk ∧
  P.trigBulk ≠ P.trigIso ∧
  P.epcfgBulkOn ≠ P.epcfgOff ∧ P.epcfgIsoOn ≠ P.epcfgOff ∧
  P.ppmFull ≠ 0 ∧ P.ppmHigh ≠ 0 ∧
  1 ≤ P.configLedTicks ∧
  0 < P.syncDelay ∧ 0 < P.tickPeriod

end Sys2Proof
end

