-- ==== Sys2Proof/Machine/Defaults.lean ====
section
/-! DEFINITION. The defaults of the parameter table of spec/92_eei_decisions.md and the test rate table of
spec/95_test_vectors.md section 0: the one instance of `P` that `State.reset` and `decodeTableWord` use (R22). -/

namespace Sys2Proof.Machine

/-- Profile T1 of the test rate table (spec/95_test_vectors.md section 0). -/
def profileT1 : Profile :=
  { id := 1, rateKsps := 1000, ifcfg := 0xE8,
    image := #v[0x01, 0x02, 0x03, 0x04, 0x05, 0x06, 0x07, 0x08, 0x09, 0x0A, 0x0B, 0x0C,
      0x0D, 0x0E, 0x0F, 0x10, 0x11, 0x12, 0x13, 0x14, 0x15, 0x16, 0x17, 0x18] }

/-- Profile T12 of the test rate table (spec/95_test_vectors.md section 0). -/
def profileT12 : Profile :=
  { id := 12, rateKsps := 12000, ifcfg := 0xEA,
    image := #v[0x40, 0x41, 0x42, 0x43, 0x44, 0x45, 0x46, 0x47, 0x48, 0x49, 0x4A, 0x4B,
      0x4C, 0x4D, 0x4E, 0x4F, 0x50, 0x51, 0x52, 0x53, 0x54, 0x55, 0x56, 0x57] }

/-- Profile T23 of the test rate table (spec/95_test_vectors.md section 0). -/
def profileT23 : Profile :=
  { id := 23, rateKsps := 23999, ifcfg := 0xEA,
    image := #v[0x60, 0x61, 0x62, 0x63, 0x64, 0x65, 0x66, 0x67, 0x68, 0x69, 0x6A, 0x6B,
      0x6C, 0x6D, 0x6E, 0x6F, 0x70, 0x71, 0x72, 0x73, 0x74, 0x75, 0x76, 0x77] }

/-- Profile T24 of the test rate table (spec/95_test_vectors.md section 0). -/
def profileT24 : Profile :=
  { id := 24, rateKsps := 24000, ifcfg := 0xEB,
    image := #v[0x80, 0x81, 0x82, 0x83, 0x84, 0x85, 0x86, 0x87, 0x88, 0x89, 0x8A, 0x8B,
      0x8C, 0x8D, 0x8E, 0x8F, 0x90, 0x91, 0x92, 0x93, 0x94, 0x95, 0x96, 0x97] }

/-- Profile T48 of the test rate table (spec/95_test_vectors.md section 0). -/
def profileT48 : Profile :=
  { id := 48, rateKsps := 48000, ifcfg := 0xEB,
    image := #v[0xC0, 0xC1, 0xC2, 0xC3, 0xC4, 0xC5, 0xC6, 0xC7, 0xC8, 0xC9, 0xCA, 0xCB,
      0xCC, 0xCD, 0xCE, 0xCF, 0xD0, 0xD1, 0xD2, 0xD3, 0xD4, 0xD5, 0xD6, 0xD7] }

/-- The default parameters (spec/92_eei_decisions.md, parameter table; R22). The two durations have no default there:
1 stands in for each, and no rule reads them (DESIGN CHOICE, safe, log entry 17). The bytes are PRESUMED by the spec itself
(log entry 18). -/
def defaultParams : Params :=
  { reqVolt0 := 0xE0, reqVolt1 := 0xE1, reqRate := 0xE2, reqAcq := 0xE3, reqNch := 0xE4
    vrField1 := 2, vrField2 := 1, vrField5 := 0, vrField10 := 3
    chShift0 := 2, chShift1 := 5
    fifocfg1 := 0x08, fifocfg2 := 0x09, fifocfgOff := 0x00
    frFirst := 0x80, frSecond := 0x82, frThird := 0x86, frClear := 0x00
    idleGateWait := true
    progMemBytes := 120
    rateTable := [profileT1, profileT12, profileT23, profileT24, profileT48]
    abortVal := 0xFF
    tcStart := 0x2800
    trigBulk := 0x06, trigIso := 0x04
    pktendBulk := 0x06, pktendIso := 0x02
    epcfgBulkOn := 0xE0, epcfgIsoOn := 0xD8, epcfgOff := 0x00
    pktLenFullBulk := 64, pktLenFullIso := 1023, pktLenHighBulk := 512, pktLenHighIso := 1024
    ppmFull := 1, ppmHigh := 3
    startWhileRunning := .fault
    ledOnIdleConfig := true
    configLedTicks := 3
    switchReset := 0x03
    gateBit := 7
    syncDelay := 1, tickPeriod := 1 }

end Sys2Proof.Machine
end

