-- ==== Sys2Proof/Syntax.lean ====
section
/-! DEFINITION. The commands of the block, one constructor per row of spec/opcode_table.json (R102, R106). -/

namespace Sys2Proof

/-- A command (R105). `arg` is `w[7:0]`. For the five vendor commands it is carried by the word only to name a case
(R100): the payload the command acts on is byte 0 of the data stage (R244). -/
inductive Instr where
  /-- VOLT0: set-voltage channel 0 (R246). -/
  | volt0 (arg : Byte)
  /-- VOLT1: set-voltage channel 1 (R246). -/
  | volt1 (arg : Byte)
  /-- RATE: set-sample-rate (R247). -/
  | rate (arg : Byte)
  /-- ACQ: start or stop acquisition (R249). -/
  | acq (arg : Byte)
  /-- NCH: set-channel-count (R248). -/
  | nch (arg : Byte)
  /-- VENDOR_UNKNOWN: a vendor request to the device whose code is none of the five (R250). -/
  | vendorUnknown (req arg : Byte)
  /-- VENDOR_IN: a vendor request from the device (R251). -/
  | vendorIn (req arg : Byte)
  /-- SETALT: set alternate setting `a` (R252). -/
  | setAlt (a : Byte)
  /-- GETALT: read the alternate setting; `arg` is ignored (R253). -/
  | getAlt (arg : Byte)
  deriving DecidableEq, Repr

end Sys2Proof
end

