-- ==== Sys2Proof/WellFormed.lean ====
section
/-! DEFINITION. When a command is one a word can stand for, under the request codes of `P`. The one check the encoding
needs: the code of VENDOR_UNKNOWN is none of the five recognized codes (R105: the first matching line wins). -/

namespace Sys2Proof

/-- The request code is one of the five of R101. -/
def knownCode (P : Params) (req : Byte) : Bool :=
  req = P.reqVolt0 || req = P.reqVolt1 || req = P.reqRate || req = P.reqNch || req = P.reqAcq

/-- Some word decodes to this command (R105, R110). -/
def Instr.wf (P : Params) : Instr → Bool
  | .volt0 _ => true
  | .volt1 _ => true
  | .rate _ => true
  | .acq _ => true
  | .nch _ => true
  | .vendorUnknown req _ => !knownCode P req
  | .vendorIn _ _ => true
  | .setAlt _ => true
  | .getAlt _ => true

end Sys2Proof
end

