-- ==== Sys2Proof/Decode.lean ====
section
/-! DEFINITION. The decoder of R105, total on every 24-bit word, and the encoder written from the formats of R102. -/

namespace Sys2Proof

/-- `w[23:16]`, the USB request type byte (R100). -/
def wordKind (w : Word24) : Byte := w.extractLsb' 16 8

/-- `w[15:8]`, the request code (R100). -/
def wordReq (w : Word24) : Byte := w.extractLsb' 8 8

/-- `w[7:0]` (R100). -/
def wordArg (w : Word24) : Byte := w.extractLsb' 0 8

/-- The word `kind : req : arg` (R100). -/
def mkWord (kind req arg : Byte) : Word24 :=
  (kind.setWidth 24 <<< 16) ||| (req.setWidth 24 <<< 8) ||| arg.setWidth 24

/-- The word with its `arg` replaced: byte 0 of the data stage IS the `arg` of a vendor command (R100). -/
def setArg (w : Word24) (b : Byte) : Word24 := mkWord (wordKind w) (wordReq w) b

/-- Vendor, host to device, device recipient (R102). This and the five constants below are PRESUMED by the spec itself, unsafe
(log entry 18). -/
def kindVendorOut : Byte := 0x40

/-- Vendor, device to host (R108). -/
def kindVendorIn : Byte := 0xC0

/-- Standard, host to device, interface recipient (R102). -/
def kindStdOut : Byte := 0x01

/-- Standard, device to host, interface recipient (R102). -/
def kindStdIn : Byte := 0x81

/-- SET_INTERFACE (R102). -/
def reqSetInterface : Byte := 0x0B

/-- GET_INTERFACE (R102). -/
def reqGetInterface : Byte := 0x0A

/-- What a word decodes to: a command, or `NotForBlock`, the name under which every other word is rejected (R105). -/
inductive Decoded where
  | instr (i : Instr)
  | notForBlock
  deriving DecidableEq, Repr

/-- A vendor request to the device, by its code; the first matching line wins (R105). -/
def decodeVendorOut (P : Params) (req arg : Byte) : Instr :=
  if req = P.reqVolt0 then .volt0 arg
  else if req = P.reqVolt1 then .volt1 arg
  else if req = P.reqRate then .rate arg
  else if req = P.reqNch then .nch arg
  else if req = P.reqAcq then .acq arg
  else .vendorUnknown req arg

/-- The decode function of R105. -/
def decode (P : Params) (w : Word24) : Decoded :=
  if wordKind w = kindVendorOut then .instr (decodeVendorOut P (wordReq w) (wordArg w))
  else if wordKind w = kindVendorIn then .instr (.vendorIn (wordReq w) (wordArg w))
  else if wordKind w = kindStdOut ∧ wordReq w = reqSetInterface then .instr (.setAlt (wordArg w))
  else if wordKind w = kindStdIn ∧ wordReq w = reqGetInterface then .instr (.getAlt (wordArg w))
  else .notForBlock

/-- The word of a command (R102, R106). -/
def encode (P : Params) : Instr → Word24
  | .volt0 arg => mkWord kindVendorOut P.reqVolt0 arg
  | .volt1 arg => mkWord kindVendorOut P.reqVolt1 arg
  | .rate arg => mkWord kindVendorOut P.reqRate arg
  | .acq arg => mkWord kindVendorOut P.reqAcq arg
  | .nch arg => mkWord kindVendorOut P.reqNch arg
  | .vendorUnknown req arg => mkWord kindVendorOut req arg
  | .vendorIn req arg => mkWord kindVendorIn req arg
  | .setAlt a => mkWord kindStdOut reqSetInterface a
  | .getAlt arg => mkWord kindStdIn reqGetInterface arg

/-- The command word whose bits are `w` as spec/opcode_table.json numbers them (bit 0 is `arg`'s bit 0), every bit above
`nbits` zero. A command word is 24 bits and has no second word (R111), so `none` where a bit above bit 23 is set. -/
def tableWord (nbits w : Nat) : Option Word24 :=
  if w % 2 ^ nbits < 2 ^ 24 then some (BitVec.ofNat 24 (w % 2 ^ nbits)) else none

/-- The command the decoder reads from a word of the opcode table, under the table's request codes (the defaults). -/
def decodeTableWord (nbits w : Nat) : Option Instr :=
  match tableWord nbits w with
  | none => none
  | some word =>
    match decode Machine.defaultParams word with
    | .instr i => some i
    | .notForBlock => none

end Sys2Proof
end

