-- ==== Sys2Proof/Machine/State.lean ====
section
/-! DEFINITION. The state of the block as plain data (spec/10_state.md), the micro-operations its sequencer holds
(R16, R33), the environment's steps (R60 to R64, R281 to R288), and the machine right after power-on reset (R310). -/

namespace Sys2Proof.Machine

/-- `acq`, the AcquisitionState (R32). -/
inductive AcqState where
  | idle
  | running
  deriving DecidableEq, Repr

/-- `wfg_phase`, the waveform generator's phase (R61). -/
inductive WfgPhase where
  | quiescent
  | executing
  | aborting
  deriving DecidableEq, Repr

/-- The content of one ingress FIFO; byte counts are not modelled (R62). -/
inductive FifoState where
  | empty
  | data
  deriving DecidableEq, Repr

/-- `led`, the status indicator (R65). -/
inductive Led where
  | off
  | streaming
  | configuring
  deriving DecidableEq, Repr

/-- The answer to the USB stack (R241). -/
inductive ReplyKind where
  | handled
  | unhandled
  deriving DecidableEq, Repr

/-- What a setting operation returns to the dispatcher (R131, R136, R153). -/
inductive Verdict where
  | accepted
  | rejected
  deriving DecidableEq, Repr

/-- The control endpoint's data stage: at least one byte (R63). -/
structure DataStage where
  first : Byte
  more  : List Byte
  deriving DecidableEq, Repr

/-- `cfg`, the AcquisitionConfig (R34). -/
structure AcqConfig where
  rateId   : Byte
  rateKsps : Nat
  nch      : ChannelCount
  alt      : Alt
  deriving DecidableEq, Repr

/-- The hardware registers the block drives, by role (R40 to R51). -/
inductive Reg where
  | sw
  | fifocfgBulk
  | fifocfgIso
  | fiforeset
  | ifconfig
  | wfgAbort
  | wfgTrig
  | wfgTcH
  | wfgTcL
  | wfgReadycfg
  | wfgCtlcfg
  | epcfgBulk
  | epcfgIso
  | eplenBulkH
  | eplenBulkL
  | eplenIsoH
  | eplenIsoL
  | isoPkts
  | pktend
  deriving DecidableEq, Repr

/-- The registers that hold a value (R53). The two strobes, `WFG_ABORT` and `PKTEND`, hold none (R44, R51). `wfgTrig` is
the trigger code last written; reading `WFG_TRIG` gives GATE, not this code (R45; DESIGN CHOICE, safe, log
entry 16). -/
structure Regs where
  sw          : Byte
  fifocfgBulk : Byte
  fifocfgIso  : Byte
  fiforeset   : Byte
  ifconfig    : Byte
  wfgTrig     : Byte
  wfgTcH      : Byte
  wfgTcL      : Byte
  wfgReadycfg : Byte
  wfgCtlcfg   : Byte
  epcfgBulk   : Byte
  epcfgIso    : Byte
  eplenBulkH  : Byte
  eplenBulkL  : Byte
  eplenIsoH   : Byte
  eplenIsoL   : Byte
  isoPkts     : Byte
  deriving DecidableEq, Repr

/-- The waveform generator's program memory `PM` (R52): cells at strictly rising indices. An index that is not listed
holds an unspecified byte, and reading it gives no value (DESIGN CHOICE,
safe, log entry 6). -/
abbrev Memory := List Host.Cell

/-- An event of the trace (R66). -/
inductive Event where
  | wr (r : Reg) (v : Byte)
  | pm (a : Nat) (v : Byte)
  | packetEnd (a : Alt)
  | reply (w : Word24) (r : ReplyKind)
  | alt (a : Alt)
  deriving DecidableEq, Repr

/-- A value of the sticky `fault` field other than `none` (R67, R270). -/
inductive StickyFault where
  /-- Code 3, raised by the FIFO hardware under R195. -/
  | fifoLockup
  /-- Code 4, `Unmodelled(StartWhileRunning)`, raised by ACQ 1 while running under R213. -/
  | startWhileRunning
  /-- Code 5, `Refused(VendorIn)`, raised by VENDOR_IN (R251). -/
  | vendorIn
  /-- Code 6, `Refused(BadAlt)`, raised by SETALT with a setting above 1 (R252). -/
  | badAlt
  /-- Code 7, `Refused(NotForBlock)`, raised by a word the USB stack should have kept (R254). -/
  | notForBlock
  /-- The model's own: a write through `pm_ptr` at an index `PM` does not have (R80). No sequence of the block makes one
  when `P` meets its constraints (DESIGN CHOICE, safe, log entry 15). -/
  | pmOutOfRange
  deriving DecidableEq, Repr

/-- The error outcomes of R270, all seven. The first two are reported in the reply and are no faults. -/
inductive ErrorKind where
  | invalidParameter
  | unsupportedRequest
  | fifoLockup
  | startWhileRunning
  | vendorIn
  | badAlt
  | notForBlock
  deriving DecidableEq, Repr

/-- Which setting a payload byte is for (R242). -/
inductive PayloadUse where
  | voltage (ch : Channel)
  | rate
  | channelCount
  | startStop
  deriving DecidableEq, Repr

/-- The conditions a `WaitUntil` tests (R91, R288). -/
inductive WaitCond where
  | gate
  | payload
  | wake
  deriving DecidableEq, Repr

/-- The nine register writes of `resetFifos()`, in the order of R191. -/
inductive ResetStep where
  | abort
  | firstPulse
  | disableBulk
  | disableIso
  | enableBulk
  | enableIso
  | secondPulse
  | thirdPulse
  | clearLine
  deriving DecidableEq, Repr

/-- A micro-operation that performs one effect and goes on to the next one (R16). A line that only names a local value is
part of the micro-operation that uses it (DESIGN CHOICE, safe, log entry 14). -/
inductive Act where
  /-- `reg[R] <- v` (R14). -/
  | wr (r : Reg) (v : Byte)
  /-- A register write of `resetFifos()`, its value evaluated when it runs (R191). -/
  | resetWrite (k : ResetStep)
  /-- `SyncDelay()` (R15). -/
  | sync
  /-- `pm_ptr <- 0` (R153). -/
  | pmRewind
  /-- `MemWrite(pm_ptr, 1, v); pm_ptr <- pm_ptr + 1` (R52). -/
  | pmWrite (v : Byte)
  /-- `acq <- a` (R210, R212). -/
  | setAcq (a : AcqState)
  /-- `led <- l; ledcnt <- n`, one micro-operation (R92). -/
  | setLed (l : Led) (n : Nat)
  /-- `vr[ch] <- code` (R131). -/
  | setVr (ch : Channel) (c : VoltageCode)
  /-- `cfg.nch <- n` (R136). -/
  | setNch (n : ChannelCount)
  /-- `cfg.rate_id <- id` (R153). -/
  | setRateId (id : Byte)
  /-- `cfg.rate_ksps <- k` (R153). -/
  | setRateKsps (k : Nat)
  /-- `cfg.alt <- a` (R171). -/
  | setAlt (a : Alt)
  /-- The first line of `initialize()`: the four defaults, one micro-operation (R311). -/
  | setDefaults
  /-- `reg[ISO_PKTS] <- (aadj(cfg) << 7) | P.PPM(speed)`, evaluated when it runs (R175). -/
  | writeIsoPkts
  /-- `fifo[BULK] <- Empty; fifo[ISO] <- Empty`, the end of `resetFifos()` (R191). -/
  | emptyFifos
  /-- `Emit(Alt(cfg.alt))` (R253). -/
  | emitAlt
  /-- `suspended <- true` (R288). -/
  | suspend
  /-- `suspended <- false`; `wake` is cleared when the hook resumes (R60, R288). -/
  | resume
  /-- The end of `initialize()`, which runs once (R311). -/
  | finishInit
  deriving DecidableEq, Repr

/-- One micro-operation of a sequence (R16, R33). -/
inductive Micro where
  | act (a : Act)
  /-- One test of a `WaitUntil` condition; the thread is held while it is false (R15). -/
  | wait (c : WaitCond)
  /-- `readPayload()`'s read of byte 0, and the setting operation it is handed to (R244, R242). That the read is a turn of
  its own, which R16's list does not name, is the model's choice (DESIGN CHOICE, safe, log entry 14). -/
  | readPayload (k : PayloadUse)
  /-- `sp <- speed`: the link speed is read once, and the writes of `selectInterface` follow (R171). -/
  | sampleSpeed (a : Alt)
  /-- `reply(r)` (R241). -/
  | reply (r : ReplyKind)
  /-- `raise f` (R15). -/
  | raise (f : StickyFault)
  deriving DecidableEq, Repr

/-- The operation in progress (R33). -/
inductive Op where
  | dispatch (w : Word24)
  | initialization
  | suspendHook
  deriving DecidableEq, Repr

/-- `seq`, the sequencer position (R33). -/
inductive Seq where
  | ready
  | busy (op : Op) (rest : List Micro)
  deriving DecidableEq, Repr

/-- How far the mandated reset sequence has come (R195 (ii)): not begun, the writes still due, or a write made in another
order or missing. -/
inductive ResetProgress where
  | outside
  | due (l : List ResetStep)
  | broken
  deriving DecidableEq, Repr

/-- What the FIFO hardware sees of the block's register writes, as far as R195 asks: whether a `SyncDelay` stands since
the last write, how far the mandated reset sequence has come, and whether the write just made leaves a lock-up possible.
The model's own bookkeeping (DESIGN CHOICE, safe, log entry 12). -/
structure FifoWatch where
  delayed  : Bool
  progress : ResetProgress
  hazard   : Bool
  deriving DecidableEq, Repr

/-- A step of an agent other than the main-loop thread (R30, R60). -/
inductive EnvEvent where
  /-- The control-transfer interrupt: a SETUP for the block has arrived (R281). -/
  | setup (w : Word24)
  /-- `DataStage(bytes)` (R63). -/
  | dataStage (d : DataStage)
  /-- `TICK`, the periodic timer interrupt (R284). -/
  | timerTick
  /-- `QUIESCE`, `WfgQuiesce` (R61). -/
  | wfgQuiesce
  /-- `FINISH`, `WfgFinish` (R61). -/
  | wfgFinish
  /-- `FILL f`, `FifoFill(f)` (R62). -/
  | fifoFill (f : Alt)
  /-- The endpoint hardware delivers a FIFO's data to the host (R62). -/
  | fifoDrain (f : Alt)
  /-- The USB stack changes the link speed (R64). -/
  | setSpeed (sp : Speed)
  /-- `SUSPEND` (R287). -/
  | suspend
  /-- `WAKE` (R60, R288). -/
  | wake
  /-- The FIFO hardware locks up, where R195 admits it. -/
  | lockup
  deriving DecidableEq, Repr

/-- When an input comes relative to the thread (R60: between any two of its steps). -/
inductive When where
  /-- After `n` more micro-operations of the thread, or as soon as the thread has no step. -/
  | afterOps (n : Nat)
  /-- As soon as the thread has no step: held in a wait, or ready with nothing to take. -/
  | whenHeld
  deriving DecidableEq, Repr

/-- One step of the environment and when it comes (DESIGN CHOICE, safe, log entry 2). -/
structure Input where
  due : When
  ev  : EnvEvent
  deriving DecidableEq, Repr

/-- The state of the block. -/
structure State where
  /-- The configuration tuple `P` (R10); no step changes it. -/
  params : Params
  acq : AcqState
  seq : Seq
  cfg : AcqConfig
  /-- `vr[0]` (R35). -/
  vr0 : Option VoltageCode
  /-- `vr[1]` (R35). -/
  vr1 : Option VoltageCode
  regs : Regs
  pm : Memory
  pmPtr : Nat
  pendingSetup : Option Word24
  pendingSuspend : Bool
  wfgPhase : WfgPhase
  /-- `fifo[BULK]` (R62). -/
  fifoBulk : FifoState
  /-- `fifo[ISO]` (R62). -/
  fifoIso : FifoState
  ep0 : Option DataStage
  speed : Speed
  suspended : Bool
  wake : Bool
  led : Led
  ledcnt : Nat
  trace : List Event
  fault : Option StickyFault
  /-- `initialize()` has run; it runs once, before the main loop takes any event (R311). -/
  booted : Bool
  watch : FifoWatch
  /-- The steps the environment is going to take, first to last (R60). -/
  inputs : List Input
  deriving DecidableEq, Repr

/-- Why the block stops with a fault. -/
inductive Fault where
  /-- Answered by any step or command of a block whose `fault` is FifoLockup (R276). Safe: the model goes no further. -/
  | fifoLockup
  /-- Answered by any step or command of a block whose `fault` is Unmodelled(StartWhileRunning) (R277). Safe. -/
  | startWhileRunning
  /-- Answered by any step or command of a block that wrote `PM` at an index it does not have. Safe: unreachable under
  the constraints of `P`. -/
  | pmOutOfRange
  deriving DecidableEq, Repr

/-- Why the model has no step. -/
inductive Refusal where
  /-- An instruction with no meaning yet, by its mnemonic. Safe; no arm answers it. -/
  | notModelled (mnemonic : String)
  /-- Answered by any step or command of a block whose `fault` is Refused(VendorIn) (R278). Safe. -/
  | vendorIn
  /-- Answered by any step or command of a block whose `fault` is Refused(BadAlt) (R278). Safe. -/
  | badAlt
  /-- Answered by any step or command of a block whose `fault` is Refused(NotForBlock) (R278). Safe. -/
  | notForBlock
  /-- Answered by a command handed to a block that is not `Ready`: one request is in progress at a time (R240, R292).
  `step` never does that. Safe. -/
  | requestInProgress
  deriving DecidableEq, Repr

/-- Every stored register 0 but `SW` (DESIGN CHOICE, unsafe, log entry 5). -/
def Regs.powerOn (sw : Byte) : Regs :=
  { sw := sw, fifocfgBulk := 0, fifocfgIso := 0, fiforeset := 0, ifconfig := 0, wfgTrig := 0, wfgTcH := 0, wfgTcL := 0,
    wfgReadycfg := 0, wfgCtlcfg := 0, epcfgBulk := 0, epcfgIso := 0, eplenBulkH := 0, eplenBulkL := 0, eplenIsoH := 0,
    eplenIsoL := 0, isoPkts := 0 }

/-- The block right after power-on reset under the parameters `P` and the link speed `sp` (R310). The fields R310 leaves
unspecified hold the values of log entries 4 and 5 (DESIGN CHOICE, unsafe). -/
def State.powerOn (P : Params) (sp : Speed) : State :=
  { params := P
    acq := .idle
    seq := .ready
    cfg := { rateId := 0, rateKsps := 0, nch := .one, alt := .bulk }
    vr0 := none
    vr1 := none
    regs := Regs.powerOn P.switchReset
    pm := []
    pmPtr := 0
    pendingSetup := none
    pendingSuspend := false
    wfgPhase := .quiescent
    fifoBulk := .empty
    fifoIso := .empty
    ep0 := none
    speed := sp
    suspended := false
    wake := false
    led := .off
    ledcnt := 0
    trace := []
    fault := none
    booted := false
    watch := { delayed := true, progress := .outside, hazard := false }
    inputs := [] }

/-- The machine right after reset: power-on under the default parameters, at high speed (DESIGN CHOICE, unsafe, log
entries 3, 5 and 7). -/
def State.reset : State := State.powerOn defaultParams .high

end Sys2Proof.Machine
end

