-- ==== Sys2Proof/Machine/Operands.lean ====
section
/-! DEFINITION. The operands of the commands: the accepted payload values (R103), and the parameters of `P` as the rules
index them (R137, R170, R190, R216). -/

namespace Sys2Proof.Machine

/-- The accepted voltage codes (R103, R130). -/
def voltageCode (b : Byte) : Option VoltageCode :=
  if b = 1 then some .v1
  else if b = 2 then some .v2
  else if b = 5 then some .v5
  else if b = 10 then some .v10
  else none

/-- The payload byte of a voltage code. -/
def voltageByte : VoltageCode → Byte
  | .v1 => 1
  | .v2 => 2
  | .v5 => 5
  | .v10 => 10

/-- The accepted channel counts (R103, R136). -/
def channelCount (b : Byte) : Option ChannelCount :=
  if b = 1 then some .one else if b = 2 then some .two else none

/-- The channel count as a number (R34). -/
def countNat : ChannelCount → Nat
  | .one => 1
  | .two => 2

/-- The alternate settings (R103): 0 bulk, 1 isochronous. -/
def altSetting (b : Byte) : Option Alt :=
  if b = 0 then some .bulk else if b = 1 then some .iso else none

/-- `RATE_TABLE[id]`, by a linear scan (R17, R152). -/
def lookupProfile (P : Params) (id : Byte) : Option Profile := P.rateTable.find? (fun p => p.id = id)

/-- `P.VR_FIELD(code)` (R130). -/
def vrField (P : Params) : VoltageCode → BitVec 3
  | .v1 => P.vrField1
  | .v2 => P.vrField2
  | .v5 => P.vrField5
  | .v10 => P.vrField10

/-- `P.CH_SHIFT[ch]` (R40). -/
def chShift (P : Params) : Channel → Nat
  | .ch0 => P.chShift0.val
  | .ch1 => P.chShift1.val

/-- The mask `0x7 << P.CH_SHIFT[ch]` of a channel's field in `SW` (R40). -/
def chMask (P : Params) (ch : Channel) : Byte := (7 : Byte) <<< chShift P ch

/-- `SW` with the channel's field set for a code and every other bit kept (R131). -/
def insertField (P : Params) (ch : Channel) (c : VoltageCode) (sw : Byte) : Byte :=
  (sw &&& ~~~(chMask P ch)) ||| (((vrField P c).setWidth 8 <<< chShift P ch) &&& chMask P ch)

/-- `P.FIFOCFG(n)` (R137). -/
def fifocfg (P : Params) : ChannelCount → Byte
  | .one => P.fifocfg1
  | .two => P.fifocfg2

/-- `P.PKT_LEN(speed, alt)` (R170). -/
def pktLen (P : Params) : Speed → Alt → Half
  | .full, .bulk => P.pktLenFullBulk
  | .full, .iso => P.pktLenFullIso
  | .high, .bulk => P.pktLenHighBulk
  | .high, .iso => P.pktLenHighIso

/-- `P.PPM(speed)` (R170). -/
def ppm (P : Params) : Speed → BitVec 7
  | .full => P.ppmFull
  | .high => P.ppmHigh

/-- The trigger code of an alternate setting (R45, R216). -/
def trigCode (P : Params) : Alt → Byte
  | .bulk => P.trigBulk
  | .iso => P.trigIso

/-- The packet-end code of an alternate setting (R51, R216). -/
def pktendCode (P : Params) : Alt → Byte
  | .bulk => P.pktendBulk
  | .iso => P.pktendIso

/-- `v[15:8]`, the byte the `_H` register holds (R83). -/
def hiByte (v : Half) : Byte := v.extractLsb' 8 8

/-- `v[7:0]`, the byte the `_L` register holds (R83). -/
def loByte (v : Half) : Byte := v.extractLsb' 0 8

/-- What a setting operation answers for a payload byte (R131, R136, R153). A start/stop payload is never rejected
(R103: every value but 1 means stop). -/
def payloadVerdict (P : Params) (k : PayloadUse) (b : Byte) : Verdict :=
  match k with
  | .voltage _ => if (voltageCode b).isSome then .accepted else .rejected
  | .rate => if (lookupProfile P b).isSome then .accepted else .rejected
  | .channelCount => if (channelCount b).isSome then .accepted else .rejected
  | .startStop => .accepted

end Sys2Proof.Machine
end

