-- ==== Sys2Proof/Machine/Flags.lean ====
section
/-! DEFINITION. The flags of spec/10_state.md section 4: the running flag, GATE, AADJ, and the byte AADJ is part of. -/

namespace Sys2Proof.Machine

/-- The "acquisition is running" flag (R55). -/
def isRunning (s : State) : Bool := s.acq = .running

/-- GATE, the idle gate: 1 exactly when the generator's phase is Quiescent (R58). -/
def gate (s : State) : Bool := s.wfgPhase = .quiescent

/-- A read of `WFG_TRIG`: bit `P.GATE_BIT` is GATE, and the other bits are whatever `other` holds (R45: they are
unspecified, and no rule reads them). -/
def readWfgTrig (other : Byte) (s : State) : Byte :=
  if gate s then other ||| ((1 : Byte) <<< s.params.gateBit.val)
  else other &&& ~~~((1 : Byte) <<< s.params.gateBit.val)

/-- `aadj(cfg)`: the exact product against 24000, strictly below (R172). -/
def aadj (c : AcqConfig) : Bool := c.rateKsps * countNat c.nch < 24000

/-- `(aadj(cfg) << 7) | P.PPM(speed)` (R50, R175). -/
def isoPktsByte (P : Params) (c : AcqConfig) (sp : Speed) : Byte :=
  ((BitVec.ofBool (aadj c)).setWidth 8 <<< 7) ||| (ppm P sp).setWidth 8

end Sys2Proof.Machine
end

