-- ==== Sys2Proof/Machine/Ops.lean ====
section
/-! DEFINITION. The named operations over program memory, the registers and the trace, what a register write does to the
hardware behind it (R61, R62, R86), the FIFO hardware's view of the mandated sequence (R195), and the two ways a command
ends: a reply and a raise. -/

namespace Sys2Proof.Machine

/-! ### Program memory -/

/-- `MemRead(a, 1)` (R14): `none` where nothing has been written (DESIGN CHOICE, safe, log entry 6). -/
def Memory.read (a : Nat) : Memory → Option Byte
  | [] => none
  | (b, v) :: m => if a = b then some v else Memory.read a m

/-- The memory with the byte at index `a` set, in the canonical form. -/
def Memory.write (a : Nat) (v : Byte) : Memory → Memory
  | [] => [(a, v)]
  | (b, u) :: m =>
    if a < b then (a, v) :: (b, u) :: m
    else if a = b then (a, v) :: m
    else (b, u) :: Memory.write a v m

/-- The canonical form: indices strictly rising. An unlisted index has no value, so no entry can equal it. -/
abbrev Memory.wf (m : Memory) : Prop := (m.map Prod.fst).Pairwise (· < ·)

/-- Every listed index lies below `n`. -/
abbrev Memory.within (n : Nat) (m : Memory) : Prop := ∀ c ∈ m, c.1 < n

/-! ### Events, faults, the sequencer -/

/-- `Emit(e)` (R15). -/
def emit (e : Event) (s : State) : State := { s with trace := s.trace ++ [e] }

/-- Entry into an error outcome that stops the block: the sticky field is set; nothing is saved and no mode changes (R15,
R67, R276 to R278, R280). The raise itself is a next state (DESIGN CHOICE, safe, log entry 13). The rules set `fault` alone:
that the rest of the operation is dropped and `seq` left `Ready`, by a `FifoLockup` in the middle of an operation too, is
the model's choice (DESIGN CHOICE, unsafe, log entry 27). -/
def raise (f : StickyFault) (s : State) : State := { s with fault := some f, seq := .ready }

/-- The sequencer after a micro-operation: `Busy(op, rest)`, or `Ready` when `rest` is empty (R33). -/
def seqAfter (op : Op) : List Micro → Seq
  | [] => .ready
  | m :: rest => .busy op (m :: rest)

/-- `reply(r)`: `Emit(Reply(w, r)); ep0 <- none; seq <- Ready`, one micro-operation (R241). An operation that is no
request has no one to answer. -/
def reply (op : Op) (r : ReplyKind) (s : State) : State :=
  match op with
  | .dispatch w => { emit (.reply w r) s with ep0 := none, seq := .ready }
  | .initialization => { s with ep0 := none, seq := .ready }
  | .suspendHook => { s with ep0 := none, seq := .ready }

/-- The outcome of a step or a command in a block whose sticky fault is `f`: it has none (R67). -/
def stopped : StickyFault → Host.Outcome State Fault Refusal
  | .fifoLockup => .fault .fifoLockup
  | .startWhileRunning => .fault .startWhileRunning
  | .pmOutOfRange => .fault .pmOutOfRange
  | .vendorIn => .refused .vendorIn
  | .badAlt => .refused .badAlt
  | .notForBlock => .refused .notForBlock

/-- The error outcome a sticky fault records (R270). -/
def faultKind : StickyFault → Option ErrorKind
  | .fifoLockup => some .fifoLockup
  | .startWhileRunning => some .startWhileRunning
  | .vendorIn => some .vendorIn
  | .badAlt => some .badAlt
  | .notForBlock => some .notForBlock
  | .pmOutOfRange => none

/-- The code of an error outcome (R270). -/
def errorCode : ErrorKind → Nat
  | .invalidParameter => 1
  | .unsupportedRequest => 2
  | .fifoLockup => 3
  | .startWhileRunning => 4
  | .vendorIn => 5
  | .badAlt => 6
  | .notForBlock => 7

/-! ### Registers -/

/-- The register file after `reg[R] <- v`: a strobe stores nothing (R44, R51). -/
def regsWrite (r : Reg) (v : Byte) (g : Regs) : Regs :=
  match r with
  | .sw => { g with sw := v }
  | .fifocfgBulk => { g with fifocfgBulk := v }
  | .fifocfgIso => { g with fifocfgIso := v }
  | .fiforeset => { g with fiforeset := v }
  | .ifconfig => { g with ifconfig := v }
  | .wfgAbort => g
  | .wfgTrig => { g with wfgTrig := v }
  | .wfgTcH => { g with wfgTcH := v }
  | .wfgTcL => { g with wfgTcL := v }
  | .wfgReadycfg => { g with wfgReadycfg := v }
  | .wfgCtlcfg => { g with wfgCtlcfg := v }
  | .epcfgBulk => { g with epcfgBulk := v }
  | .epcfgIso => { g with epcfgIso := v }
  | .eplenBulkH => { g with eplenBulkH := v }
  | .eplenBulkL => { g with eplenBulkL := v }
  | .eplenIsoH => { g with eplenIsoH := v }
  | .eplenIsoL => { g with eplenIsoL := v }
  | .isoPkts => { g with isoPkts := v }
  | .pktend => g

/-- The generator's phase after a register write: the trigger starts it, the abort ends an execution (R61). -/
def phaseAfter (r : Reg) (p : WfgPhase) : WfgPhase :=
  match r, p with
  | .wfgTrig, _ => .executing
  | .wfgAbort, .executing => .aborting
  | _, p => p

/-- The events of a register write: `Wr(R, v)`, and `PacketEnd(alt)` after a write of `PKTEND` (R51, R66). -/
def writeEvents (r : Reg) (v : Byte) (a : Alt) : List Event :=
  match r with
  | .pktend => [.wr r v, .packetEnd a]
  | _ => [.wr r v]

/-- The mandated order of the reset sequence's writes (R191). -/
def resetSteps : List ResetStep :=
  [.abort, .firstPulse, .disableBulk, .disableIso, .enableBulk, .enableIso, .secondPulse, .thirdPulse, .clearLine]

/-- The register a write of the reset sequence goes to (R191). -/
def resetReg : ResetStep → Reg
  | .abort => .wfgAbort
  | .firstPulse => .fiforeset
  | .disableBulk => .fifocfgBulk
  | .disableIso => .fifocfgIso
  | .enableBulk => .fifocfgBulk
  | .enableIso => .fifocfgIso
  | .secondPulse => .fiforeset
  | .thirdPulse => .fiforeset
  | .clearLine => .fiforeset

/-- The byte a write of the reset sequence carries (R191). -/
def resetByte (P : Params) (n : ChannelCount) : ResetStep → Byte
  | .abort => P.abortVal
  | .firstPulse => P.frFirst
  | .disableBulk => P.fifocfgOff
  | .disableIso => P.fifocfgOff
  | .enableBulk => fifocfg P n
  | .enableIso => fifocfg P n
  | .secondPulse => P.frSecond
  | .thirdPulse => P.frThird
  | .clearLine => P.frClear

/-- The write `k` as the next one of a sequence with the writes `l` to come. -/
def takeDue (k : ResetStep) : List ResetStep → ResetProgress
  | [] => .broken
  | k' :: l => if k = k' then .due l else .broken

/-- The progress of the reset sequence after its write `k`. Once a write was out of order or missing, the rest of the
sequence counts as misordered too (R195 (ii)). -/
def progressAfter (k : ResetStep) : ResetProgress → ResetProgress
  | .outside => takeDue k resetSteps
  | .due l => takeDue k l
  | .broken => .broken

/-- R195's conditions at the write `k` of the reset sequence, the generator in phase `p`: (i) no `SyncDelay` since the
previous register write, (ii) another order or a missing write, (iii) the first pulse while the generator is not
quiescent. -/
def lockupAdmitted (p : WfgPhase) (k : ResetStep) (w : FifoWatch) : Bool :=
  !w.delayed || decide (progressAfter k w.progress = .broken) || (decide (k = .firstPulse) && decide (p ≠ .quiescent))

/-- The FIFO hardware's view after a write of the reset sequence: at each of the nine, a lock-up is possible exactly when
R195 admits it (log entries 12 and 22). -/
def watchReset (p : WfgPhase) (k : ResetStep) (w : FifoWatch) : FifoWatch :=
  { delayed := false, progress := progressAfter k w.progress, hazard := lockupAdmitted p k w }

/-- The FIFO hardware's view after a register write that is none of the reset sequence's: R195 admits no lock-up there. -/
def watchWrite (w : FifoWatch) : FifoWatch := { w with delayed := false, hazard := false }

/-- The FIFO hardware's view at the end of the reset sequence: a write still due is missing, and no write is left to show
it (DESIGN CHOICE, safe, log entry 22). -/
def watchEnd (w : FifoWatch) : FifoWatch :=
  { w with progress := .outside, hazard := decide (w.progress ≠ .due []) }

/-- A packet-end strobe empties the active FIFO (R62); the bulk FIFO after a register write. -/
def fifoBulkAfter (r : Reg) (a : Alt) (f : FifoState) : FifoState :=
  if r = .pktend ∧ a = .bulk then .empty else f

/-- The isochronous FIFO after a register write (R62). -/
def fifoIsoAfter (r : Reg) (a : Alt) (f : FifoState) : FifoState :=
  if r = .pktend ∧ a = .iso then .empty else f

/-- `reg[R] <- v` (R14), with the side effects of R86. -/
def writeReg (r : Reg) (v : Byte) (s : State) : State :=
  { s with
    regs := regsWrite r v s.regs
    wfgPhase := phaseAfter r s.wfgPhase
    fifoBulk := fifoBulkAfter r s.cfg.alt s.fifoBulk
    fifoIso := fifoIsoAfter r s.cfg.alt s.fifoIso
    trace := s.trace ++ writeEvents r v s.cfg.alt
    watch := watchWrite s.watch }

/-- A register write of `resetFifos()` (R191): the write itself, and what it is to the FIFO hardware (R195). -/
def resetWrite (k : ResetStep) (s : State) : State :=
  { writeReg (resetReg k) (resetByte s.params s.cfg.nch k) s with watch := watchReset s.wfgPhase k s.watch }

/-- The end of `resetFifos()`: both FIFOs are empty (R191, R193). -/
def emptyFifos (s : State) : State :=
  { s with fifoBulk := .empty, fifoIso := .empty, watch := watchEnd s.watch }

/-- `SyncDelay()`: it writes nothing (R15). The FIFO hardware has seen its delay (R195). -/
def syncDelay (s : State) : State := { s with watch := { s.watch with delayed := true } }

/-- A byte through the auto-incrementing pointer (R52): `MemWrite(pm_ptr, 1, v); pm_ptr <- pm_ptr + 1`, with the event
`Pm(pm_ptr, v)` (R66). `PM` has the indices 0 to `P.PROG_MEM_BYTES - 1` and no other (R80; DESIGN CHOICE, safe, log entry 15). -/
def pmWrite (v : Byte) (s : State) : State :=
  if s.pmPtr < s.params.progMemBytes then
    { s with pm := Memory.write s.pmPtr v s.pm, pmPtr := s.pmPtr + 1, trace := s.trace ++ [.pm s.pmPtr v] }
  else raise .pmOutOfRange s

/-- `vr[ch] <- code` (R35). -/
def setVr (ch : Channel) (c : VoltageCode) (s : State) : State :=
  match ch with
  | .ch0 => { s with vr0 := some c }
  | .ch1 => { s with vr1 := some c }

/-- `vr[ch]` (R35). -/
def readVr (ch : Channel) (s : State) : Option VoltageCode :=
  match ch with
  | .ch0 => s.vr0
  | .ch1 => s.vr1

/-- `fifo[f]` (R62). -/
def readFifo (f : Alt) (s : State) : FifoState :=
  match f with
  | .bulk => s.fifoBulk
  | .iso => s.fifoIso

/-- `fifo[f] <- x` (R62). -/
def setFifo (f : Alt) (x : FifoState) (s : State) : State :=
  match f with
  | .bulk => { s with fifoBulk := x }
  | .iso => { s with fifoIso := x }

/-! ### One effect -/

/-- The default configuration: rate id 1, 1000 kSa/s, 2 channels, interface 0 (R311). -/
def defaultConfig : AcqConfig := { rateId := 1, rateKsps := 1000, nch := .two, alt := .bulk }

/-- What one plain micro-operation does (R16). -/
def actEffect : Act → State → State
  | .wr r v, s => writeReg r v s
  | .resetWrite k, s => resetWrite k s
  | .sync, s => syncDelay s
  | .pmRewind, s => { s with pmPtr := 0 }
  | .pmWrite v, s => pmWrite v s
  | .setAcq a, s => { s with acq := a }
  | .setLed l n, s => { s with led := l, ledcnt := n }
  | .setVr ch c, s => setVr ch c s
  | .setNch n, s => { s with cfg := { s.cfg with nch := n } }
  | .setRateId id, s => { s with cfg := { s.cfg with rateId := id } }
  | .setRateKsps k, s => { s with cfg := { s.cfg with rateKsps := k } }
  | .setAlt a, s => { s with cfg := { s.cfg with alt := a } }
  | .setDefaults, s => { s with cfg := defaultConfig }
  | .writeIsoPkts, s => writeReg .isoPkts (isoPktsByte s.params s.cfg s.speed) s
  | .emptyFifos, s => emptyFifos s
  | .emitAlt, s => emit (.alt s.cfg.alt) s
  | .suspend, s => { s with suspended := true }
  | .resume, s => { s with suspended := false, wake := false }
  | .finishInit, s => { s with booted := true }

/-! ### The environment -/

/-- The dispatcher is held waiting for the data stage (R63). -/
def awaitsPayload (s : State) : Bool :=
  match s.seq with
  | .busy _ (.wait .payload :: _) => s.ep0.isNone
  | _ => false

/-- One step of another agent. A step that is not enabled is no step: it changes nothing (DESIGN CHOICE, safe, log entry
11). While the block is suspended the timer is not stepped and the generator keeps its phase (R288; DEDUCED, unsafe, log
entry 9). -/
def envStep (e : EnvEvent) (s : State) : State :=
  match e with
  | .setup w =>
    if s.pendingSetup = none ∧ s.seq = .ready then { s with pendingSetup := some w } else s
  | .dataStage d => if awaitsPayload s then { s with ep0 := some d } else s
  | .timerTick =>
    if s.suspended = false ∧ 0 < s.ledcnt then
      { s with ledcnt := s.ledcnt - 1, led := if s.ledcnt - 1 = 0 then .off else s.led }
    else s
  | .wfgQuiesce =>
    if s.suspended = false ∧ s.wfgPhase = .aborting then { s with wfgPhase := .quiescent } else s
  | .wfgFinish =>
    if s.suspended = false ∧ s.wfgPhase = .executing then { s with wfgPhase := .quiescent } else s
  | .fifoFill f =>
    if s.wfgPhase = .executing ∧ f = s.cfg.alt then setFifo f .data s else s
  | .fifoDrain f => setFifo f .empty s
  | .setSpeed sp => { s with speed := sp }
  | .suspend => { s with pendingSuspend := true }
  | .wake => { s with wake := true }
  | .lockup => if s.watch.hazard then raise .fifoLockup s else s

/-- The input that comes now, if one does, and the inputs after it (R60): one whose count of micro-operations has run
out, or, while the thread has no step, the first one. -/
def dueInput (canMove : Bool) : List Input → Option (EnvEvent × List Input)
  | [] => none
  | ⟨.afterOps 0, e⟩ :: l => some (e, l)
  | ⟨.afterOps (_ + 1), e⟩ :: l => if canMove then none else some (e, l)
  | ⟨.whenHeld, e⟩ :: l => if canMove then none else some (e, l)

/-- The inputs after one more micro-operation of the thread. -/
def countOp : List Input → List Input
  | ⟨.afterOps (n + 1), e⟩ :: l => ⟨.afterOps n, e⟩ :: l
  | l => l

/-- The state with one more micro-operation of the thread counted. -/
def counted (s : State) : State := { s with inputs := countOp s.inputs }

end Sys2Proof.Machine
end

