-- ==== Sys2Proof/Machine/FifoReset.lean ====
section
/-! DEFINITION. fifo_reset_sequencer (spec/43_fifo_reset_sequencer.md). -/

namespace Sys2Proof.Machine

/-- A register write and the synchronization delay that follows every one of them (R90, R320). -/
def wrSync (r : Reg) (v : Byte) : List Micro := [.act (.wr r v), .act .sync]

/-- A write of the reset sequence and the mandated delay after it (R191, R195). -/
def resetSync (k : ResetStep) : List Micro := [.act (.resetWrite k), .act .sync]

/-- `resetFifos()` (R191). -/
def resetFifosOps (P : Params) : List Micro :=
  resetSync .abort
  ++ (if P.idleGateWait then [.wait .gate] else [])
  ++ resetSync .firstPulse
  ++ resetSync .disableBulk
  ++ resetSync .disableIso
  ++ resetSync .enableBulk
  ++ resetSync .enableIso
  ++ resetSync .secondPulse
  ++ resetSync .thirdPulse
  ++ resetSync .clearLine
  ++ [.act .emptyFifos]

end Sys2Proof.Machine
end

