-- ==== Sys2Proof/Machine/Interface.lean ====
section
/-! DEFINITION. The interface and endpoint selector (spec/42_interface_selector.md). -/

namespace Sys2Proof.Machine

/-- `recomputeIso()` (R175): nothing under alternate setting 0 (R174). -/
def recomputeIsoOps : Alt → List Micro
  | .bulk => []
  | .iso => [.act .writeIsoPkts, .act .sync]

/-- The first lines of `selectInterface(alt)`: the setting, then the one reading of the link speed (R171). -/
def selectInterfaceOps (a : Alt) : List Micro := [.act (.setAlt a), .sampleSpeed a]

/-- The writes of `selectInterface(alt)` for the link speed that was read (R171). -/
def endpointOps (P : Params) (sp : Speed) : Alt → List Micro
  | .bulk =>
    wrSync .epcfgIso P.epcfgOff
    ++ wrSync .epcfgBulk P.epcfgBulkOn
    ++ wrSync .eplenBulkH (hiByte (pktLen P sp .bulk))
    ++ wrSync .eplenBulkL (loByte (pktLen P sp .bulk))
  | .iso =>
    wrSync .epcfgBulk P.epcfgOff
    ++ wrSync .epcfgIso P.epcfgIsoOn
    ++ wrSync .eplenIsoH (hiByte (pktLen P sp .iso))
    ++ wrSync .eplenIsoL (loByte (pktLen P sp .iso))
    ++ recomputeIsoOps .iso

end Sys2Proof.Machine
end

