-- ==== Sys2Proof/Machine/ChannelMux.lean ====
section
/-! DEFINITION. channel_mux_configurator: the voltage selector and the channel count (spec/40_channel_mux.md). -/

namespace Sys2Proof.Machine

/-- `setVoltage(ch, code)` (R131): the read-modify-write of `SW` keeps every bit outside the channel's field. -/
def setVoltageOps (ch : Channel) (b : Byte) (s : State) : List Micro :=
  match voltageCode b with
  | none => []
  | some c => wrSync .sw (insertField s.params ch c s.regs.sw) ++ [.act (.setVr ch c)]

/-- `setChannelCount(n)` for an accepted count (R136). -/
def channelCountOps (P : Params) (a : Alt) (n : ChannelCount) : List Micro :=
  wrSync .fifocfgBulk (fifocfg P n) ++ wrSync .fifocfgIso (fifocfg P n) ++ [.act (.setNch n)] ++ recomputeIsoOps a

/-- `setChannelCount(n)` (R136). -/
def setChannelCountOps (b : Byte) (s : State) : List Micro :=
  match channelCount b with
  | none => []
  | some n => channelCountOps s.params s.cfg.alt n

end Sys2Proof.Machine
end

