-- ==== Sys2Proof/Machine/ClockLoader.lean ====
section
/-! DEFINITION. clock_prog_loader, the sample-clock program loader (spec/41_clock_prog_loader.md). -/

namespace Sys2Proof.Machine

/-- The 120 bytes of a load: the profile's 24, then 96 zero bytes (R153 steps (c) and (d)). -/
def programImage (p : Profile) : List Byte := p.image.toList ++ List.replicate 96 0

/-- `setSampleRate(id)` for the profile found (R153): (a) the interface timing, (b) the generator's control state, (c)
and (d) the image through the pointer, then the persisted rate and the recomputation. -/
def loadProfileOps (P : Params) (a : Alt) (p : Profile) : List Micro :=
  wrSync .ifconfig p.ifcfg
  ++ wrSync .wfgAbort P.abortVal
  ++ wrSync .wfgReadycfg 0
  ++ wrSync .wfgCtlcfg 0
  ++ [.act .pmRewind]
  ++ (programImage p).map (fun v => .act (.pmWrite v))
  ++ [.act (.setRateId p.id), .act (.setRateKsps p.rateKsps)]
  ++ recomputeIsoOps a

/-- `setSampleRate(id)` (R153): an identifier that is not in the table writes nothing (R157). -/
def setSampleRateOps (id : Byte) (s : State) : List Micro :=
  match lookupProfile s.params id with
  | none => []
  | some p => loadProfileOps s.params s.cfg.alt p

end Sys2Proof.Machine
end

