-- ==== Sys2Proof/Machine/StartStop.lean ====
section
/-! DEFINITION. The acquisition start/stop controller (spec/44_acquisition_state_machine.md) and the prologue of every
configuration command (R243). -/

namespace Sys2Proof.Machine

/-- `stop()` (R210). -/
def stopOps (P : Params) (a : Alt) : List Micro :=
  wrSync .wfgAbort P.abortVal ++ wrSync .pktend (pktendCode P a) ++ [.act (.setAcq .idle)]

/-- `start()` (R212). -/
def startOps (P : Params) (c : AcqConfig) : List Micro :=
  resetFifosOps P
  ++ wrSync .wfgTcH (hiByte P.tcStart)
  ++ wrSync .wfgTcL (loByte P.tcStart)
  ++ wrSync .wfgTrig (trigCode P c.alt)
  ++ [.act (.setLed .streaming 0), .act (.setAcq .running)]

/-- `startCommand()` (R242, R213): a start while running is a fault, raised before any write, or a restart. -/
def startCommandOps (s : State) : List Micro :=
  if isRunning s ∧ s.params.startWhileRunning = .fault then [.raise .startWhileRunning]
  else startOps s.params s.cfg

/-- ACQ's choice by its payload: 1 starts, every other value stops (R249). -/
def startStopOps (b : Byte) (s : State) : List Micro :=
  if b = 1 then startCommandOps s else stopOps s.params s.cfg.alt

/-- `prologue()` (R243): stop, then the configuring indicator if acquisition was running or `P.LED_ON_IDLE_CONFIG`. -/
def prologueOps (s : State) : List Micro :=
  stopOps s.params s.cfg.alt
  ++ (if isRunning s || s.params.ledOnIdleConfig then [.act (.setLed .configuring s.params.configLedTicks)] else [])

end Sys2Proof.Machine
end

