-- ==== Sys2Proof/Machine/Sequencer.lean ====
section
/-! DEFINITION. The sequencer: one micro-operation of the main-loop thread (R16, R33), one turn of the whole machine
(R30), and a run of turns until the thread is `Ready` or nothing can move. -/

namespace Sys2Proof.Machine

/-- The micro-operations of the setting operation a payload byte is handed to (R242). -/
def payloadOps : PayloadUse → Byte → State → List Micro
  | .voltage ch, b, s => setVoltageOps ch b s
  | .rate, b, s => setSampleRateOps b s
  | .channelCount, b, s => setChannelCountOps b s
  | .startStop, b, s => startStopOps b s

/-- The operation once its payload is read: byte 0 of the data stage is the `arg` of its word (R100; DEDUCED,
unsafe for the trace, log entry 8). -/
def opWithArg (op : Op) (b : Byte) : Op :=
  match op with
  | .dispatch w => .dispatch (setArg w b)
  | .initialization => .initialization
  | .suspendHook => .suspendHook

/-- The condition of a `WaitUntil` (R91, R288). -/
def waitHolds (c : WaitCond) (s : State) : Bool :=
  match c with
  | .gate => gate s
  | .payload => s.ep0.isSome
  | .wake => s.wake

/-- The window in which the FIFO hardware may lock up closes when the block goes on (R195; DESIGN CHOICE, unsafe, log
entry 22). -/
def closeHazard (s : State) : State := { s with watch := { s.watch with hazard := false } }

/-- One micro-operation `m` of `Busy(op, m :: rest)` (R33). The read of the payload byte is a turn of its own
(DESIGN CHOICE, safe, log entry 14). -/
def microStep (op : Op) (m : Micro) (rest : List Micro) (s : State) : State :=
  match m with
  | .act a => { actEffect a (closeHazard s) with seq := seqAfter op rest }
  | .wait c => if waitHolds c s then { closeHazard s with seq := seqAfter op rest } else s
  | .readPayload k =>
    match s.ep0 with
    | none => s
    | some d => { closeHazard s with seq := seqAfter (opWithArg op d.first) (payloadOps k d.first s ++ rest) }
  | .sampleSpeed a => { closeHazard s with seq := seqAfter op (endpointOps s.params s.speed a ++ rest) }
  | .reply r => reply op r (closeHazard s)
  | .raise f => raise f (closeHazard s)

/-- The main-loop thread has a step (R33, R282): a `WaitUntil` whose condition is false holds it, and with `seq = Ready`
it has one only when initialization, a request or a suspend is due and the block is not suspended. -/
def canMove (s : State) : Bool :=
  match s.seq with
  | .ready => !s.suspended && (!s.booted || s.pendingSetup.isSome || s.pendingSuspend)
  | .busy _ (.wait c :: _) => waitHolds c s
  | .busy _ (.readPayload _ :: _) => s.ep0.isSome
  | .busy _ _ => true

/-- The thread's step inside an operation (R33). -/
def sequencerStep (s : State) : State :=
  match s.seq with
  | .ready => s
  | .busy _ [] => { s with seq := .ready }
  | .busy op (m :: rest) => microStep op m rest s

/-- One turn of the machine (R30, R60), for a given step of the thread: the input that is due, or else the thread's step;
none where nothing can move, and none in a faulted block (R67). -/
def turn (threadStep : State → State) (s : State) : Option State :=
  match s.fault with
  | some _ => none
  | none =>
    match dueInput (canMove s) s.inputs with
    | some (e, l) => some (envStep e { s with inputs := l })
    | none => if canMove s then some (threadStep (counted s)) else none

/-- At most `n` turns of an operation in progress, ending when the thread is `Ready`, when nothing can move (a hold, R279)
or when the block is faulted. -/
def run : Nat → State → State
  | 0, s => s
  | n + 1, s =>
    match s.seq with
    | .ready => s
    | .busy _ _ =>
      match turn sequencerStep s with
      | none => s
      | some s' => run n s'

/-- More turns than any sequence of the block has micro-operations (the longest, a load, has fewer than 160), and one for
each input. A run that still ends early leaves `Busy(op, rest)`, and the next step carries on from there. -/
def fuel (s : State) : Nat := 256 + s.inputs.length

/-- The operation in progress, carried on until the thread is `Ready` or nothing can move. -/
def carryOn (s : State) : State := run (fuel s) s

end Sys2Proof.Machine
end

