-- ==== Sys2Proof/Machine/Dispatcher.lean ====
section
/-! DEFINITION. The vendor command dispatcher (spec/45_dispatcher.md): the sequence of each command, and each command's
meaning: the main loop takes the request and its sequence runs synchronously to completion (R240), the environment's
steps coming in between (R60). -/

namespace Sys2Proof.Machine

/-- The sequence of a configuration command with a payload: prologue, wait, read and apply, reply (R242, R245). -/
def configCommandOps (k : PayloadUse) (s : State) : List Micro :=
  prologueOps s ++ [.wait .payload, .readPayload k, .reply .handled]

/-- VOLT0's sequence (R246). -/
def volt0Ops (s : State) : List Micro := configCommandOps (.voltage .ch0) s

/-- VOLT1's sequence (R246). -/
def volt1Ops (s : State) : List Micro := configCommandOps (.voltage .ch1) s

/-- RATE's sequence (R247). -/
def rateOps (s : State) : List Micro := configCommandOps .rate s

/-- NCH's sequence (R248). -/
def nchOps (s : State) : List Micro := configCommandOps .channelCount s

/-- ACQ's sequence: no prologue (R249). -/
def acqOps (_s : State) : List Micro := [.wait .payload, .readPayload .startStop, .reply .handled]

/-- VENDOR_UNKNOWN's sequence (R250). -/
def vendorUnknownOps (_s : State) : List Micro := [.reply .unhandled]

/-- VENDOR_IN's sequence (R251). -/
def vendorInOps (_s : State) : List Micro := [.raise .vendorIn]

/-- SETALT's sequence (R252): a setting above 1 is refused before the prologue. -/
def setAltOps (a : Byte) (s : State) : List Micro :=
  match altSetting a with
  | none => [.raise .badAlt]
  | some alt => prologueOps s ++ selectInterfaceOps alt ++ [.reply .handled]

/-- GETALT's sequence (R253). -/
def getAltOps (_s : State) : List Micro := [.act .emitAlt, .reply .handled]

/-- The sequence of a word the USB stack should have kept (R242, R254). -/
def foreignOps : List Micro := [.raise .notForBlock]

/-- `dispatch(w)` (R242), for the words that decode to a command. -/
def dispatchOps (i : Instr) (s : State) : List Micro :=
  match i with
  | .volt0 _ => volt0Ops s
  | .volt1 _ => volt1Ops s
  | .rate _ => rateOps s
  | .acq _ => acqOps s
  | .nch _ => nchOps s
  | .vendorUnknown _ _ => vendorUnknownOps s
  | .vendorIn _ _ => vendorInOps s
  | .setAlt a => setAltOps a s
  | .getAlt _ => getAltOps s

/-- The main loop takes a request: `pending_setup <- none; seq <- Busy(dispatch(w), ...)`, one step of the thread
(R240, R282). -/
def takeWord (w : Word24) (ops : List Micro) (s : State) : State :=
  { s with pendingSetup := none, seq := .busy (.dispatch w) ops }

/-- The main loop takes the request of a command. -/
def takeRequest (i : Instr) (ops : List Micro) (s : State) : State := takeWord (encode s.params i) ops s

/-- A command's meaning, for its sequence: a faulted block has no step (R67), a block in the middle of an operation takes
no request (R240; DESIGN CHOICE, safe, log entry 20), and otherwise the request is taken and its sequence carried on. -/
def runRequest (i : Instr) (ops : List Micro) (s : State) : Host.Outcome State Fault Refusal :=
  match s.fault with
  | some f => stopped f
  | none =>
    match s.seq with
    | .busy _ _ => .refused .requestInProgress
    | .ready => .next (carryOn (takeRequest i ops (counted s)))

/-- VOLT0 (R246). -/
def execVolt0 (arg : Byte) (s : State) : Host.Outcome State Fault Refusal := runRequest (.volt0 arg) (volt0Ops s) s

/-- VOLT1 (R246). -/
def execVolt1 (arg : Byte) (s : State) : Host.Outcome State Fault Refusal := runRequest (.volt1 arg) (volt1Ops s) s

/-- RATE (R247). -/
def execRate (arg : Byte) (s : State) : Host.Outcome State Fault Refusal := runRequest (.rate arg) (rateOps s) s

/-- ACQ (R249). -/
def execAcq (arg : Byte) (s : State) : Host.Outcome State Fault Refusal := runRequest (.acq arg) (acqOps s) s

/-- NCH (R248). -/
def execNch (arg : Byte) (s : State) : Host.Outcome State Fault Refusal := runRequest (.nch arg) (nchOps s) s

/-- VENDOR_UNKNOWN (R250). -/
def execVendorUnknown (req arg : Byte) (s : State) : Host.Outcome State Fault Refusal :=
  runRequest (.vendorUnknown req arg) (vendorUnknownOps s) s

/-- VENDOR_IN (R251). -/
def execVendorIn (req arg : Byte) (s : State) : Host.Outcome State Fault Refusal :=
  runRequest (.vendorIn req arg) (vendorInOps s) s

/-- SETALT (R252). -/
def execSetAlt (a : Byte) (s : State) : Host.Outcome State Fault Refusal := runRequest (.setAlt a) (setAltOps a s) s

/-- GETALT (R253). -/
def execGetAlt (arg : Byte) (s : State) : Host.Outcome State Fault Refusal := runRequest (.getAlt arg) (getAltOps s) s

end Sys2Proof.Machine
end

