-- ==== Sys2Proof/Machine/MainLoop.lean ====
section
/-! DEFINITION. The main loop (R282), initialization (R311), the suspend hook (R288), one turn of the whole machine at the
grain of R16, and how a request is placed for the next step. -/

namespace Sys2Proof.Machine

/-- `initialize()` (R311): the defaults applied through the operations a command uses. Its calls are accepted, by R151; a table
that breaks R151 loads nothing (DESIGN CHOICE, safe, log entry 25). -/
def initializeOps (P : Params) (rate1 : Option Profile) : List Micro :=
  [.act .setDefaults]
  ++ channelCountOps P .bulk .two
  ++ (match rate1 with
      | none => []
      | some p => loadProfileOps P .bulk p)
  ++ selectInterfaceOps .bulk
  ++ [.act .finishInit]

/-- `suspendHook()` (R288). -/
def suspendHookOps : List Micro := [.act .suspend, .wait .wake, .act .resume]

/-- What the main loop takes with `seq = Ready` (R282, R311). -/
inductive Taken where
  | initialization
  | request (i : Instr)
  | notForBlock (w : Word24)
  | suspend
  | nothing
  deriving DecidableEq, Repr

/-- Initialization first (R311), then a pending request, decoded, then a pending suspend (R282). -/
def mainLoopTakes (s : State) : Taken :=
  if s.booted then
    match s.pendingSetup with
    | some w =>
      match decode s.params w with
      | .instr i => .request i
      | .notForBlock => .notForBlock w
    | none => if s.pendingSuspend then .suspend else .nothing
  else .initialization

/-- Initialization starts: `seq <- Busy(initialize, ...)`, a turn of its own before the first line of R311's pseudocode. R310
leaves `seq` Ready and no rule says how the thread gets from there to that line (DESIGN CHOICE, safe, log entry 28). -/
def beginInitialize (s : State) : State :=
  { s with seq := .busy .initialization (initializeOps s.params (lookupProfile s.params 1)) }

/-- `pending_suspend <- false; suspendHook()` (R282). -/
def beginSuspend (s : State) : State :=
  { s with pendingSuspend := false, seq := .busy .suspendHook suspendHookOps }

/-- A word the USB stack should have kept is taken as any request is; its dispatch refuses it before any write (R254,
R282). -/
def takeForeign (w : Word24) (s : State) : State := takeWord w foreignOps s

/-- `mainLoopStep()` (R282), and the start of initialization before it (R311). -/
def mainLoopStep (s : State) : State :=
  match mainLoopTakes s with
  | .initialization => beginInitialize s
  | .request i => takeRequest i (dispatchOps i s) s
  | .notForBlock w => takeForeign w s
  | .suspend => beginSuspend s
  | .nothing => s

/-- The thread's step: the main loop's with `seq = Ready`, the sequencer's inside an operation (R33, R282). -/
def threadStep (s : State) : State :=
  match s.seq with
  | .ready => mainLoopStep s
  | .busy _ _ => sequencerStep s

/-- One turn of the whole machine at the grain of R16: one micro-operation of the thread, or one step of another agent;
`none` where nothing can move. -/
def tick (s : State) : Option State := turn threadStep s

/-- What the machine's next step is: nothing at all in a faulted block (R67), the same state where nothing can move (idle
polling has no effect, R282; a held block is held, R279), one step of another agent, an operation carried on, or a
request. -/
inductive NextMove where
  | stop (f : StickyFault)
  | goTo (s' : State)
  | request (i : Instr)
  deriving DecidableEq, Repr

/-- The next move with `seq = Ready`: the input that is due, or what the main loop takes. -/
def readyMove (s : State) : NextMove :=
  match dueInput (canMove s) s.inputs with
  | some (e, l) => .goTo (envStep e { s with inputs := l })
  | none =>
    if canMove s then
      match mainLoopTakes s with
      | .initialization => .goTo (carryOn (beginInitialize (counted s)))
      | .request i => .request i
      | .notForBlock w => .goTo (carryOn (takeForeign w (counted s)))
      | .suspend => .goTo (carryOn (beginSuspend (counted s)))
      | .nothing => .goTo s
    else .goTo s

/-- The machine's next move. -/
def nextMove (s : State) : NextMove :=
  match s.fault with
  | some f => .stop f
  | none =>
    match s.seq with
    | .busy _ _ => .goTo (carryOn s)
    | .ready => readyMove s

/-- The data stage the host sends with a word: byte 0 is the word's `arg`, for a vendor word to the device (R100, R112). -/
def wordInputs (w : Word24) : List Input :=
  if wordKind w = kindVendorOut then [{ due := .whenHeld, ev := .dataStage { first := wordArg w, more := [] } }] else []

/-- The state with initialization behind it (R311): its requests are the first the main loop can take. -/
def bootedState (s : State) : State :=
  if s.booted then s else carryOn (beginInitialize { s with inputs := [] })

/-- The request placed so that the next step takes it: initialization behind it, the word pending, no data stage yet, and
the host's data stage the one input to come (DESIGN CHOICE, log entry 10). -/
def placeRequest (w : Word24) (s : State) : State :=
  { bootedState s with pendingSetup := some w, ep0 := none, inputs := wordInputs w }

end Sys2Proof.Machine
end

