-- ==== Sys2Proof/Machine/Dispatch.lean ====
section
/-! DEFINITION. exec: one arm per command, each one direct call of its meaning. -/

namespace Sys2Proof.Machine

def exec (i : Instr) (s : State) : Host.Outcome State Fault Refusal :=
  match i with
  | .volt0 arg => Sys2Proof.Machine.execVolt0 arg s
  | .volt1 arg => Sys2Proof.Machine.execVolt1 arg s
  | .rate arg => Sys2Proof.Machine.execRate arg s
  | .acq arg => Sys2Proof.Machine.execAcq arg s
  | .nch arg => Sys2Proof.Machine.execNch arg s
  | .vendorUnknown req arg => Sys2Proof.Machine.execVendorUnknown req arg s
  | .vendorIn req arg => Sys2Proof.Machine.execVendorIn req arg s
  | .setAlt a => Sys2Proof.Machine.execSetAlt a s
  | .getAlt arg => Sys2Proof.Machine.execGetAlt arg s

end Sys2Proof.Machine
end

