-- ==== Sys2Proof/Machine/Step.lean ====
section
/-! DEFINITION. The machine's step, and how a word is placed for it. -/

namespace Sys2Proof.Machine

/-- One step of the machine: a request the main loop takes is executed as a whole, the environment's steps coming between
its micro-operations (R240, R60); `tick` is the same machine one micro-operation at a time (DESIGN CHOICE, safe, log
entry 1). -/
def step (s : State) : Host.Outcome State Fault Refusal :=
  match nextMove s with
  | .stop f => stopped f
  | .goTo s' => .next s'
  | .request i => exec i s

/-- The state with the command word of the opcode table's bits `w` placed so that the next step runs it. Bits that are no
24-bit word place nothing. -/
def State.withFetchWord (s : State) (nbits w : Nat) : State :=
  match tableWord nbits w with
  | none => s
  | some word => placeRequest word s

end Sys2Proof.Machine
end

