-- ==== Sys2Proof/Safety.lean ====
section
/-! DEFINITION. The terms claims are written in: when a command can be taken, what the sequences leave behind as plain
state updates (no sequencer in sight), the invariants of a sane block, and a run of turns. -/

namespace Sys2Proof.Machine

/-! ### When a command can be taken, and what comes while it runs -/

/-- The main loop is between events and the block is not faulted (R282). -/
abbrev CanTake (s : State) : Prop := s.fault = none ∧ s.seq = .ready

/-- No input comes while the thread has a step: the list is empty, or its first input waits until the thread is held. -/
def quiet : List Input → Bool
  | [] => true
  | i :: _ => decide (i.due = .whenHeld)

/-- The host sends the data stage `d` when the dispatcher waits for it (R63). -/
def dataIn (d : DataStage) : Input := { due := .whenHeld, ev := .dataStage d }

/-- The generator reaches its idle state when the block waits for it (R61). -/
def quiesceIn : Input := { due := .whenHeld, ev := .wfgQuiesce }

/-- No data stage has arrived yet, `d` comes when it is waited for, and the inputs `l` after it leave the block alone
until it is held again. -/
abbrev PayloadComes (d : DataStage) (l : List Input) (s : State) : Prop :=
  s.ep0 = none ∧ s.inputs = dataIn d :: l ∧ quiet l = true

/-- The two states agree in every field but the FIFO hardware's view of the writes (`watch`), the model's own field. -/
abbrev AgreesButWatch (t u : State) : Prop := t = { u with watch := t.watch }

/-- The five configuration commands (R19). -/
def isConfigCommand : Instr → Bool
  | .volt0 _ => true
  | .volt1 _ => true
  | .rate _ => true
  | .acq _ => false
  | .nch _ => true
  | .vendorUnknown _ _ => false
  | .vendorIn _ _ => false
  | .setAlt _ => true
  | .getAlt _ => false

/-- The set-voltage command of a channel (R104). -/
def voltInstr : Channel → Byte → Instr
  | .ch0, arg => .volt0 arg
  | .ch1, arg => .volt1 arg

/-- The request code of a channel's set-voltage command (R104). -/
def voltReq (P : Params) : Channel → Byte
  | .ch0 => P.reqVolt0
  | .ch1 => P.reqVolt1

/-! ### The sequences as state updates -/

/-- A write of `WFG_ABORT`: an executing generator aborts (R61). -/
def abortedPhase : WfgPhase → WfgPhase
  | .quiescent => .quiescent
  | .executing => .aborting
  | .aborting => .aborting

/-- The events of `stop()` (R210). -/
def stopEvents (P : Params) (a : Alt) : List Event :=
  [.wr .wfgAbort P.abortVal, .wr .pktend (pktendCode P a), .packetEnd a]

/-- The state `stop()` leaves (R210). -/
def afterStop (s : State) : State :=
  { s with
    acq := .idle
    wfgPhase := abortedPhase s.wfgPhase
    fifoBulk := if s.cfg.alt = .bulk then .empty else s.fifoBulk
    fifoIso := if s.cfg.alt = .iso then .empty else s.fifoIso
    trace := s.trace ++ stopEvents s.params s.cfg.alt }

/-- The state `prologue()` leaves (R243). -/
def afterPrologue (s : State) : State :=
  if s.acq = .running ∨ s.params.ledOnIdleConfig = true then
    { afterStop s with led := .configuring, ledcnt := s.params.configLedTicks }
  else afterStop s

/-- The events of `resetFifos()` (R191). -/
def resetEvents (P : Params) (n : ChannelCount) : List Event :=
  [.wr .wfgAbort P.abortVal, .wr .fiforeset P.frFirst, .wr .fifocfgBulk P.fifocfgOff, .wr .fifocfgIso P.fifocfgOff,
   .wr .fifocfgBulk (fifocfg P n), .wr .fifocfgIso (fifocfg P n), .wr .fiforeset P.frSecond, .wr .fiforeset P.frThird,
   .wr .fiforeset P.frClear]

/-- The state `start()` leaves (R212, with `resetFifos()` of R191 inside). -/
def afterStart (s : State) : State :=
  { s with
    acq := .running
    wfgPhase := .executing
    fifoBulk := .empty
    fifoIso := .empty
    led := .streaming
    ledcnt := 0
    regs := { s.regs with
      fiforeset := s.params.frClear
      fifocfgBulk := fifocfg s.params s.cfg.nch
      fifocfgIso := fifocfg s.params s.cfg.nch
      wfgTcH := hiByte s.params.tcStart
      wfgTcL := loByte s.params.tcStart
      wfgTrig := trigCode s.params s.cfg.alt }
    trace := s.trace ++ resetEvents s.params s.cfg.nch ++
      [.wr .wfgTcH (hiByte s.params.tcStart), .wr .wfgTcL (loByte s.params.tcStart),
       .wr .wfgTrig (trigCode s.params s.cfg.alt)] }

/-- The state an accepted `setVoltage(ch, c)` leaves (R131). -/
def afterSetVoltage (ch : Channel) (c : VoltageCode) (s : State) : State :=
  setVr ch c { s with
    regs := { s.regs with sw := insertField s.params ch c s.regs.sw }
    trace := s.trace ++ [.wr .sw (insertField s.params ch c s.regs.sw)] }

/-- The state `recomputeIso()` leaves (R175). -/
def afterRecomputeIso (s : State) : State :=
  match s.cfg.alt with
  | .bulk => s
  | .iso =>
    { s with
      regs := { s.regs with isoPkts := isoPktsByte s.params s.cfg s.speed }
      trace := s.trace ++ [.wr .isoPkts (isoPktsByte s.params s.cfg s.speed)] }

/-- The state an accepted `setChannelCount(n)` leaves (R136). -/
def afterSetChannelCount (n : ChannelCount) (s : State) : State :=
  afterRecomputeIso { s with
    regs := { s.regs with fifocfgBulk := fifocfg s.params n, fifocfgIso := fifocfg s.params n }
    cfg := { s.cfg with nch := n }
    trace := s.trace ++ [.wr .fifocfgBulk (fifocfg s.params n), .wr .fifocfgIso (fifocfg s.params n)] }

/-- The bytes written one after another from index `a` on. -/
def writeBytes : Nat → List Byte → Memory → Memory
  | _, [], m => m
  | a, v :: l, m => writeBytes (a + 1) l (Memory.write a v m)

/-- The events of those writes (R66). -/
def pmEvents : Nat → List Byte → List Event
  | _, [] => []
  | a, v :: l => .pm a v :: pmEvents (a + 1) l

/-- The state an accepted `setSampleRate(p.id)` leaves (R153). -/
def afterSetSampleRate (p : Profile) (s : State) : State :=
  afterRecomputeIso { s with
    regs := { s.regs with ifconfig := p.ifcfg, wfgReadycfg := 0, wfgCtlcfg := 0 }
    wfgPhase := abortedPhase s.wfgPhase
    pm := writeBytes 0 (programImage p) s.pm
    pmPtr := 120
    cfg := { s.cfg with rateId := p.id, rateKsps := p.rateKsps }
    trace := s.trace ++ [.wr .ifconfig p.ifcfg, .wr .wfgAbort s.params.abortVal, .wr .wfgReadycfg 0, .wr .wfgCtlcfg 0]
      ++ pmEvents 0 (programImage p) }

/-- The state `selectInterface(alt)` leaves (R171). -/
def afterSelectInterface (a : Alt) (s : State) : State :=
  match a with
  | .bulk =>
    { s with
      cfg := { s.cfg with alt := .bulk }
      regs := { s.regs with
        epcfgIso := s.params.epcfgOff
        epcfgBulk := s.params.epcfgBulkOn
        eplenBulkH := hiByte (pktLen s.params s.speed .bulk)
        eplenBulkL := loByte (pktLen s.params s.speed .bulk) }
      trace := s.trace ++
        [.wr .epcfgIso s.params.epcfgOff, .wr .epcfgBulk s.params.epcfgBulkOn,
         .wr .eplenBulkH (hiByte (pktLen s.params s.speed .bulk)),
         .wr .eplenBulkL (loByte (pktLen s.params s.speed .bulk))] }
  | .iso =>
    afterRecomputeIso { s with
      cfg := { s.cfg with alt := .iso }
      regs := { s.regs with
        epcfgBulk := s.params.epcfgOff
        epcfgIso := s.params.epcfgIsoOn
        eplenIsoH := hiByte (pktLen s.params s.speed .iso)
        eplenIsoL := loByte (pktLen s.params s.speed .iso) }
      trace := s.trace ++
        [.wr .epcfgBulk s.params.epcfgOff, .wr .epcfgIso s.params.epcfgIsoOn,
         .wr .eplenIsoH (hiByte (pktLen s.params s.speed .iso)),
         .wr .eplenIsoL (loByte (pktLen s.params s.speed .iso))] }

/-- The state a reply leaves: the event, and no data stage (R241). -/
def answered (w : Word24) (r : ReplyKind) (s : State) : State :=
  { s with trace := s.trace ++ [.reply w r], ep0 := none }

/-- The request is out of the pending flag and the inputs `l` are still to come (R282). -/
def taken (l : List Input) (s : State) : State := { s with pendingSetup := none, inputs := l }

/-! ### Replaying a trace -/

/-- What one event does to the register file. -/
def replayReg (e : Event) (g : Regs) : Regs :=
  match e with
  | .wr r v => regsWrite r v g
  | .pm _ _ => g
  | .packetEnd _ => g
  | .reply _ _ => g
  | .alt _ => g

/-- What one event does to program memory. -/
def replayPm (e : Event) (m : Memory) : Memory :=
  match e with
  | .wr _ _ => m
  | .pm a v => Memory.write a v m
  | .packetEnd _ => m
  | .reply _ _ => m
  | .alt _ => m

/-! ### Invariants -/

/-- Program memory is canonical and holds no index it does not have (R52, R80). -/
abbrev PmOk (s : State) : Prop := Memory.wf s.pm ∧ Memory.within s.params.progMemBytes s.pm

/-- A countdown is pending exactly while the configuring indicator shows (R65, R284). -/
abbrev IndicatorOk (s : State) : Prop := 0 < s.ledcnt ↔ s.led = .configuring

/-- The configuration is valid and the hardware agrees with it: the rate is a profile's, its timing byte and image are
loaded, the generator's control state is clear, both FIFOs are set for the channel count, the endpoint of the setting is
enabled and the other is off, the active length pair is the one of some link speed, and under setting 1 the packet-count
register holds AADJ and a packet count (R41, R43, R47, R48, R49, R156, R176, R214). -/
structure ConfigApplied (s : State) : Prop where
  rate : ∃ p, lookupProfile s.params s.cfg.rateId = some p ∧ p.rateKsps = s.cfg.rateKsps ∧ s.regs.ifconfig = p.ifcfg ∧
    ∀ i, i < 120 → Memory.read i s.pm = (programImage p)[i]?
  control : s.regs.wfgReadycfg = 0 ∧ s.regs.wfgCtlcfg = 0
  fifos : s.regs.fifocfgBulk = fifocfg s.params s.cfg.nch ∧ s.regs.fifocfgIso = fifocfg s.params s.cfg.nch
  endpoints : match s.cfg.alt with
    | .bulk => s.regs.epcfgBulk = s.params.epcfgBulkOn ∧ s.regs.epcfgIso = s.params.epcfgOff
    | .iso => s.regs.epcfgBulk = s.params.epcfgOff ∧ s.regs.epcfgIso = s.params.epcfgIsoOn
  lengths : ∃ sp, match s.cfg.alt with
    | .bulk => s.regs.eplenBulkH = hiByte (pktLen s.params sp .bulk) ∧ s.regs.eplenBulkL = loByte (pktLen s.params sp .bulk)
    | .iso => s.regs.eplenIsoH = hiByte (pktLen s.params sp .iso) ∧ s.regs.eplenIsoL = loByte (pktLen s.params sp .iso)
  packets : s.cfg.alt = .iso → ∃ sp, s.regs.isoPkts = isoPktsByte s.params s.cfg sp

/-- Where a step can leave the sequencer: `Ready` with no data stage, held for a data stage, held at the idle gate of a
start, or suspended (R33, R63, R91, R288). -/
def Rests (s : State) : Prop :=
  (s.seq = .ready ∧ s.ep0 = none ∧ s.suspended = false) ∨
  (∃ w k, s.seq = .busy (.dispatch w) [.wait .payload, .readPayload k, .reply .handled] ∧ s.ep0 = none ∧
    s.suspended = false) ∨
  (∃ w, s.seq = .busy (.dispatch w) ((startOps s.params s.cfg).drop 2 ++ [.reply .handled]) ∧
    s.params.idleGateWait = true ∧ s.ep0.isSome = true ∧ s.suspended = false) ∨
  (s.seq = .busy .suspendHook [.wait .wake, .act .resume] ∧ s.ep0 = none ∧ s.suspended = true)

/-- The invariant of the configured block: parameters within their constraints, program memory canonical, the indicator
consistent; before initialization the power-on sequencer; after it, and while no fault has stopped the block, a sequencer
at rest and a configuration the hardware agrees with. -/
structure BlockInv (s : State) : Prop where
  params : s.params.Ok
  memory : PmOk s
  indicator : IndicatorOk s
  unbooted : s.booted = false → s.seq = .ready ∧ s.ep0 = none ∧ s.suspended = false
  rests : s.booted = true → s.fault = none → Rests s
  applied : s.booted = true → s.fault = none → ConfigApplied s

/-- The FIFO hardware is outside a reset sequence, the last write has its delay, and no lock-up window is open (R195). -/
abbrev WatchIdle (s : State) : Prop := s.watch.progress = .outside ∧ s.watch.delayed = true ∧ s.watch.hazard = false

/-- The block is held at the idle gate of a reset sequence (R191). -/
def atGate (s : State) : Bool :=
  match s.seq with
  | .busy _ (.wait .gate :: _) => true
  | _ => false

/-- Nothing can lead to a lock-up (R196): the sequence waits for the idle gate, every write has its delay, no lock-up
window is open, the reset sequence has made its abort and nothing else where the block is held at the gate and is not begun
elsewhere, and no lock-up has come. -/
structure NoRace (s : State) : Prop where
  wait : s.params.idleGateWait = true
  delay : s.watch.delayed = true
  window : s.watch.hazard = false
  order : s.watch.progress = if atGate s then .due (resetSteps.drop 1) else .outside
  clean : s.fault ≠ some .fifoLockup

/-! ### Turns -/

/-- `n` turns of the whole machine at the grain of R16; `none` where it cannot make that many. -/
def ticks : Nat → State → Option State
  | 0, s => some s
  | n + 1, s =>
    match tick s with
    | none => none
    | some s' => ticks n s'

end Sys2Proof.Machine
end

