-- ==== Sys2Proof/Certificates/Slice0/Obligations.lean ====
section
/-! DEFINITION. The statements for the provers, from the numbered rules of spec/. Every state that a statement quantifies
over carries its own parameters `P` and its own list of inputs, so each one holds for every value of the parameters and,
where no premise says otherwise, for every interleaving of the environment. -/

open Sys2Proof Sys2Proof.Machine

/-! ### Encoding -/

/-- Decoding the word of a well-formed command gives the command back, every operand at every value (R100, R102, R105). -/
def Obligations.DecodeOfEncodeIsTheCommand : Prop :=
  ∀ (P : Params) (i : Instr), P.CodesDistinct → i.wf P = true → decode P (encode P i) = .instr i

/-- A word that decodes to a command is that command's word, and the command is well-formed (R105, R110). -/
def Obligations.EncodeOfDecodeIsTheWord : Prop :=
  ∀ (P : Params) (w : Word24) (i : Instr), decode P w = .instr i → encode P i = w ∧ i.wf P = true

/-- The opcode map of R106 under the default codes, row by row. The row of GETALT is stated for every argument, which R100
and R105 ignore. -/
def Obligations.OpcodeMapDecodes : Prop :=
  (∀ pp, decode defaultParams (mkWord 0x40 0xE0 pp) = .instr (.volt0 pp)) ∧
  (∀ pp, decode defaultParams (mkWord 0x40 0xE1 pp) = .instr (.volt1 pp)) ∧
  (∀ pp, decode defaultParams (mkWord 0x40 0xE2 pp) = .instr (.rate pp)) ∧
  (∀ pp, decode defaultParams (mkWord 0x40 0xE3 pp) = .instr (.acq pp)) ∧
  (∀ pp, decode defaultParams (mkWord 0x40 0xE4 pp) = .instr (.nch pp)) ∧
  (∀ rr pp, rr ∉ [(0xE0 : Byte), 0xE1, 0xE2, 0xE3, 0xE4] →
    decode defaultParams (mkWord 0x40 rr pp) = .instr (.vendorUnknown rr pp)) ∧
  (∀ rr pp, decode defaultParams (mkWord 0xC0 rr pp) = .instr (.vendorIn rr pp)) ∧
  (∀ aa, decode defaultParams (mkWord 0x01 0x0B aa) = .instr (.setAlt aa)) ∧
  (∀ aa, decode defaultParams (mkWord 0x81 0x0A aa) = .instr (.getAlt aa)) ∧
  (∀ kk rr aa, kk ∉ [(0x40 : Byte), 0xC0] → ¬ (kk = 0x01 ∧ rr = 0x0B) → ¬ (kk = 0x81 ∧ rr = 0x0A) →
    decode defaultParams (mkWord kk rr aa) = .notForBlock)

/-- A few words written out from the spec (its vectors V-D1 to V-D14) decode as it says. -/
def Obligations.SpecWordsDecode : Prop :=
  decode defaultParams 0x40E00A = .instr (.volt0 10) ∧
  decode defaultParams 0x40E105 = .instr (.volt1 5) ∧
  decode defaultParams 0x40E218 = .instr (.rate 24) ∧
  decode defaultParams 0x40E301 = .instr (.acq 1) ∧
  decode defaultParams 0x40E401 = .instr (.nch 1) ∧
  decode defaultParams 0x400B01 = .instr (.vendorUnknown 0x0B 1) ∧
  decode defaultParams 0xC0E000 = .instr (.vendorIn 0xE0 0) ∧
  decode defaultParams 0x010B02 = .instr (.setAlt 2) ∧
  decode defaultParams 0x810A00 = .instr (.getAlt 0) ∧
  decode defaultParams 0x000900 = .notForBlock ∧
  decode defaultParams 0x410000 = .notForBlock

/-- The accepted operand values of R103. -/
def Obligations.AcceptedOperandValues : Prop :=
  ∀ (P : Params) (b : Byte),
    ((voltageCode b).isSome = true ↔ b = 1 ∨ b = 2 ∨ b = 5 ∨ b = 10) ∧
    (∀ c, voltageCode b = some c → voltageByte c = b) ∧
    ((lookupProfile P b).isSome = true ↔ ∃ p ∈ P.rateTable, p.id = b) ∧
    ((channelCount b).isSome = true ↔ b = 1 ∨ b = 2) ∧
    (∀ n, channelCount b = some n → BitVec.ofNat 8 (countNat n) = b) ∧
    (altSetting b = some .bulk ↔ b = 0) ∧ (altSetting b = some .iso ↔ b = 1) ∧ (altSetting b = none ↔ 2 ≤ b.toNat)

/-! ### Reset and initialization -/

/-- Power-on reset (R310): the fields the rule gives, that `State.reset` is such a state, and that no step leaves a faulted
block, so that only a power-on reset clears `fault`. -/
def Obligations.PowerOnState : Prop :=
  (∀ (P : Params) (sp : Speed),
    (State.powerOn P sp).acq = .idle ∧ (State.powerOn P sp).seq = .ready ∧
    (State.powerOn P sp).vr0 = none ∧ (State.powerOn P sp).vr1 = none ∧
    (State.powerOn P sp).regs.sw = P.switchReset ∧
    (State.powerOn P sp).wfgPhase = .quiescent ∧ gate (State.powerOn P sp) = true ∧
    (State.powerOn P sp).fifoBulk = .empty ∧ (State.powerOn P sp).fifoIso = .empty ∧
    (State.powerOn P sp).ep0 = none ∧ (State.powerOn P sp).pendingSetup = none ∧
    (State.powerOn P sp).pendingSuspend = false ∧ (State.powerOn P sp).suspended = false ∧
    (State.powerOn P sp).led = .off ∧ (State.powerOn P sp).ledcnt = 0 ∧
    (State.powerOn P sp).trace = [] ∧ (State.powerOn P sp).fault = none) ∧
  (∃ P sp, P.Ok ∧ State.reset = State.powerOn P sp) ∧
  (∀ s t, s.fault ≠ none → step s ≠ .next t)

/-- The first step after power-on runs initialization and leaves the state of the table of R312, whatever the parameters,
the link speed, and the values of the fields R310 leaves unspecified; what the table calls not written is as it was. It
writes exactly what its three calls write, so it calls no `stop()` and sends no reply (R311). -/
def Obligations.InitializationLeavesTheTable : Prop :=
  ∀ (P : Params) (sp : Speed) (g : Regs) (c : AcqConfig) (m : Memory) (k : Nat), P.Ok →
    ∃ t p, step { State.powerOn P sp with regs := { g with sw := P.switchReset }, cfg := c, pm := m, pmPtr := k } = .next t ∧
      lookupProfile P 1 = some p ∧
      t.acq = .idle ∧ t.seq = .ready ∧ t.booted = true ∧
      t.cfg = { rateId := 1, rateKsps := 1000, nch := .two, alt := .bulk } ∧
      t.vr0 = none ∧ t.vr1 = none ∧
      t.regs = { g with
        sw := P.switchReset, fifocfgBulk := P.fifocfg2, fifocfgIso := P.fifocfg2, ifconfig := p.ifcfg,
        wfgReadycfg := 0, wfgCtlcfg := 0, epcfgBulk := P.epcfgBulkOn, epcfgIso := P.epcfgOff,
        eplenBulkH := hiByte (pktLen P sp .bulk), eplenBulkL := loByte (pktLen P sp .bulk) } ∧
      t.wfgPhase = .quiescent ∧ gate t = true ∧
      (∀ i, i < 24 → Memory.read i t.pm = p.image[i]?) ∧
      (∀ i, 24 ≤ i → i < 120 → Memory.read i t.pm = some 0) ∧
      (∀ i, 120 ≤ i → Memory.read i t.pm = Memory.read i m) ∧
      t.pmPtr = 120 ∧ t.led = .off ∧ t.ledcnt = 0 ∧
      t.pendingSetup = none ∧ t.pendingSuspend = false ∧ t.fault = none ∧
      t.trace = [.wr .fifocfgBulk P.fifocfg2, .wr .fifocfgIso P.fifocfg2, .wr .ifconfig p.ifcfg, .wr .wfgAbort P.abortVal,
          .wr .wfgReadycfg 0, .wr .wfgCtlcfg 0]
        ++ pmEvents 0 (programImage p)
        ++ [.wr .epcfgIso P.epcfgOff, .wr .epcfgBulk P.epcfgBulkOn, .wr .eplenBulkH (hiByte (pktLen P sp .bulk)),
          .wr .eplenBulkL (loByte (pktLen P sp .bulk))]

/-! ### The step -/

/-- When the pending word decodes to a command, the block is initialized, not suspended and at rest, and no input comes
first, the step is exec of that command at that very state (R240, R282). -/
def Obligations.StepRunsTheDecodedCommand : Prop :=
  ∀ (s : State) (w : Word24) (i : Instr), CanTake s → s.booted = true → s.suspended = false →
    s.pendingSetup = some w → decode s.params w = .instr i → quiet s.inputs = true → step s = exec i s

/-- A word of the opcode table placed by `withFetchWord` is run by the next step. -/
def Obligations.PlacedWordRunsNext : Prop :=
  ∀ (s : State) (nbits w : Nat) (word : Word24) (i : Instr),
    CanTake (bootedState s) → (bootedState s).booted = true → (bootedState s).suspended = false →
    tableWord nbits w = some word → decode (bootedState s).params word = .instr i →
    step (s.withFetchWord nbits w) = exec i (s.withFetchWord nbits w)

/-- The main loop's step (R282) at the grain of R16: a pending request before a pending suspend, `Busy(dispatch(w), ...)`
for a request, a word that is not for the block included, and no step where nothing is pending (that `step` then answers the
same state is the model's choice, log entry 1). -/
def Obligations.MainLoopTakesRequestThenSuspend : Prop :=
  ∀ (s : State), CanTake s → s.booted = true → s.suspended = false → quiet s.inputs = true →
    (∀ w i, s.pendingSetup = some w → decode s.params w = .instr i →
      tick s = some { s with pendingSetup := none, seq := .busy (.dispatch w) (dispatchOps i s) }) ∧
    (∀ w, s.pendingSetup = some w → decode s.params w = .notForBlock →
      tick s = some { s with pendingSetup := none, seq := .busy (.dispatch w) [.raise .notForBlock] }) ∧
    (s.pendingSetup = none → s.pendingSuspend = true →
      tick s = some { s with
        pendingSuspend := false
        seq := .busy .suspendHook [.act .suspend, .wait .wake, .act .resume] }) ∧
    (s.pendingSetup = none → s.pendingSuspend = false → s.inputs = [] → tick s = none ∧ step s = .next s)

/-- The sequencer (R33): a plain micro-operation is executed and `seq` becomes `Busy(op, rest)`, or `Ready` when `rest` is
empty; a `WaitUntil` whose condition is false holds the thread and, with no input to come, nothing moves; one whose
condition is true is passed. The model's own choices in it: the lock-up window closes as the thread goes on (`closeHazard`;
DESIGN CHOICE, unsafe, log entry 22), and a step in which nothing can move answers the same state (log entry 1). -/
def Obligations.SequencerExecutesTheNextMicroOperation : Prop :=
  ∀ (s : State) (op : Op) (m : Micro) (rest : List Micro),
    s.fault = none → s.seq = .busy op (m :: rest) → quiet s.inputs = true →
    (∀ a, m = .act a →
      tick s = some { actEffect a (closeHazard s) with seq := if rest = [] then .ready else .busy op rest }) ∧
    (∀ c, m = .wait c → waitHolds c s = true →
      tick s = some { closeHazard s with seq := if rest = [] then .ready else .busy op rest }) ∧
    (∀ c, m = .wait c → waitHolds c s = false → s.inputs = [] → tick s = none ∧ step s = .next s)

/-- Every step of the machine is a finite run of turns at the grain of R16: one micro-operation of the thread, or one step
of another agent, at a time. -/
def Obligations.StepIsARunOfTurns : Prop :=
  ∀ (s t : State), step s = .next t → ∃ n, ticks n s = some t

/-- A block whose `fault` is set has no step of any kind (R67): neither a turn, nor a step, nor a command. -/
def Obligations.FaultedBlockHasNoStep : Prop :=
  ∀ (s : State) (f : StickyFault), s.fault = some f →
    tick s = none ∧ step s = stopped f ∧ (∀ i, exec i s = stopped f) ∧ (∀ t, stopped f ≠ .next t)

/-- A command handed to a block in the middle of an operation is turned away with no effect (R240, R292). -/
def Obligations.OneRequestAtATime : Prop :=
  ∀ (s : State) (i : Instr) (op : Op) (rest : List Micro), s.fault = none → s.seq = .busy op rest →
    exec i s = .refused .requestInProgress

/-! ### The environment -/

/-- The timer interrupt (R284), while the block is not suspended. -/
def Obligations.TimerTickDecaysTheIndicator : Prop :=
  ∀ (s : State), s.suspended = false →
    envStep .timerTick s =
      if s.ledcnt = 0 then s
      else { s with ledcnt := s.ledcnt - 1, led := if s.ledcnt = 1 then .off else s.led }

/-- What the environment's steps leave alone (R30, R60, R92): no step of another agent writes a register, program memory,
the configuration, the channel ranges, the running flag, the trace or the parameters, and each touches only the state its
own rule names. -/
def Obligations.EnvironmentKeepsTheBlocksState : Prop :=
  ∀ (e : EnvEvent) (s : State),
    (envStep e s).params = s.params ∧ (envStep e s).acq = s.acq ∧ (envStep e s).cfg = s.cfg ∧
    (envStep e s).vr0 = s.vr0 ∧ (envStep e s).vr1 = s.vr1 ∧ (envStep e s).regs = s.regs ∧
    (envStep e s).pm = s.pm ∧ (envStep e s).pmPtr = s.pmPtr ∧ (envStep e s).trace = s.trace ∧
    (envStep e s).booted = s.booted ∧ (envStep e s).inputs = s.inputs ∧ (envStep e s).suspended = s.suspended ∧
    (e ≠ .lockup → (envStep e s).seq = s.seq ∧ (envStep e s).fault = s.fault) ∧
    (e ≠ .timerTick → (envStep e s).led = s.led ∧ (envStep e s).ledcnt = s.ledcnt) ∧
    ((∀ w, e ≠ .setup w) → (envStep e s).pendingSetup = s.pendingSetup) ∧
    ((∀ d, e ≠ .dataStage d) → (envStep e s).ep0 = s.ep0) ∧
    ((∀ sp, e ≠ .setSpeed sp) → (envStep e s).speed = s.speed) ∧
    (e ≠ .wfgQuiesce → e ≠ .wfgFinish → (envStep e s).wfgPhase = s.wfgPhase) ∧
    ((∀ f, e ≠ .fifoFill f ∧ e ≠ .fifoDrain f) →
      (envStep e s).fifoBulk = s.fifoBulk ∧ (envStep e s).fifoIso = s.fifoIso) ∧
    (e ≠ .suspend → (envStep e s).pendingSuspend = s.pendingSuspend) ∧
    (e ≠ .wake → (envStep e s).wake = s.wake)

/-- The generator's phase (R61): what each register write does to it, and its two steps of its own, which the block's
suspension holds up (R288; log entry 9). -/
def Obligations.GeneratorPhaseTransitions : Prop :=
  (∀ v s, (writeReg .wfgTrig v s).wfgPhase = .executing) ∧
  (∀ v s, (writeReg .wfgAbort v s).wfgPhase = if s.wfgPhase = .executing then .aborting else s.wfgPhase) ∧
  (∀ r v s, r ≠ .wfgTrig → r ≠ .wfgAbort → (writeReg r v s).wfgPhase = s.wfgPhase) ∧
  (∀ s, s.suspended = false → (envStep .wfgQuiesce s).wfgPhase =
    if s.wfgPhase = .aborting then .quiescent else s.wfgPhase) ∧
  (∀ s, s.suspended = false → (envStep .wfgFinish s).wfgPhase =
    if s.wfgPhase = .executing then .quiescent else s.wfgPhase) ∧
  (∀ s, s.suspended = true → (envStep .wfgQuiesce s).wfgPhase = s.wfgPhase ∧ (envStep .wfgFinish s).wfgPhase = s.wfgPhase)

/-- GATE (R45, R58): whatever the unspecified bits of a read of `WFG_TRIG` are, its bit `P.GATE_BIT` is 1 exactly when the
generator is Quiescent. -/
def Obligations.GateBitIsQuiescence : Prop :=
  ∀ (s : State) (other : Byte),
    (readWfgTrig other s).getLsbD s.params.gateBit.val = true ↔ s.wfgPhase = .quiescent

/-- `DataStage(bytes)` is enabled only while the dispatcher is held for it, and sets `ep0` alone (R63). -/
def Obligations.DataStageOnlyWhileHeld : Prop :=
  ∀ (s : State) (d : DataStage),
    (∀ op rest, s.seq = .busy op (.wait .payload :: rest) → s.ep0 = none →
      envStep (.dataStage d) s = { s with ep0 := some d }) ∧
    ((∀ op rest, s.seq ≠ .busy op (.wait .payload :: rest)) → envStep (.dataStage d) s = s) ∧
    (s.ep0 ≠ none → envStep (.dataStage d) s = s)

/-- The control-transfer interrupt marks the request pending and does nothing else; there is no such step while a request
is pending or in progress (R56, R281, R292). -/
def Obligations.SetupInterruptMarksPending : Prop :=
  ∀ (s : State) (w : Word24),
    (s.pendingSetup = none → s.seq = .ready → envStep (.setup w) s = { s with pendingSetup := some w }) ∧
    (s.pendingSetup ≠ none ∨ s.seq ≠ .ready → envStep (.setup w) s = s)

/-- A change of the link speed alone triggers nothing in the block (R179). -/
def Obligations.SpeedChangeTriggersNothing : Prop :=
  ∀ (s : State) (sp : Speed) (l : List Input), CanTake s → s.inputs = { due := .afterOps 0, ev := .setSpeed sp } :: l →
    step s = .next { s with speed := sp, inputs := l }

/-- The suspend hook (R288): it holds the main loop until WAKE, a timer tick that comes meanwhile is not stepped, and every
other field is as it was. That a suspended block with no input to come steps to itself is the model's choice (log entry
1). -/
def Obligations.SuspendHookHoldsUntilWake : Prop :=
  (∀ (s : State) (l : List Input), CanTake s → s.booted = true → s.suspended = false → s.wake = false →
    s.pendingSetup = none → s.pendingSuspend = true → quiet l = true →
    s.inputs = { due := .whenHeld, ev := .timerTick } :: { due := .whenHeld, ev := .wake } :: l →
    ∃ t, step s = .next t ∧ AgreesButWatch t { s with pendingSuspend := false, inputs := l }) ∧
  (∀ (s : State), CanTake s → s.booted = true → s.suspended = false → s.wake = false →
    s.pendingSetup = none → s.pendingSuspend = true → s.inputs = [] →
    ∃ t, step s = .next t ∧ step t = .next t ∧
      AgreesButWatch t { s with
        pendingSuspend := false, suspended := true, seq := .busy .suspendHook [.wait .wake, .act .resume] })

/-! ### The configuration commands -/

/-- VOLT0 and VOLT1 (R246, R131, R134) complete: the prologue, then the field of `SW` and `vr[ch]` for an accepted code and
nothing for another, then `Handled`. Every other field is as it was. -/
def Obligations.VoltCommandSetsItsFieldOrRejects : Prop :=
  ∀ (ch : Channel) (arg : Byte) (s : State) (d : DataStage) (l : List Input), CanTake s → PayloadComes d l s →
    ∃ t, exec (voltInstr ch arg) s = .next t ∧
      AgreesButWatch t (answered (mkWord kindVendorOut (voltReq s.params ch) d.first) .handled
        (match voltageCode d.first with
          | some c => afterSetVoltage ch c (afterPrologue (taken l s))
          | none => afterPrologue (taken l s)))

/-- Channel isolation (R132): whatever `SW` held, the bits outside the channel's mask are kept, the three bits inside it
are `VR_FIELD(code)`, and with disjoint fields the other channel's three bits are kept. -/
def Obligations.ChannelFieldsAreIsolated : Prop :=
  ∀ (P : Params) (ch : Channel) (c : VoltageCode) (sw : Byte),
    insertField P ch c sw &&& ~~~(chMask P ch) = sw &&& ~~~(chMask P ch) ∧
    (∀ i, i < 3 → (insertField P ch c sw).getLsbD (chShift P ch + i) = (vrField P c).getLsbD i) ∧
    (P.Ok → ∀ ch' i, ch' ≠ ch → i < 3 →
      (insertField P ch c sw).getLsbD (chShift P ch' + i) = sw.getLsbD (chShift P ch' + i))

/-- A set-voltage command changes no bit of `SW` outside its channel's mask, whatever comes meanwhile (R132, R134). -/
def Obligations.VoltCommandKeepsTheOtherBits : Prop :=
  ∀ (ch : Channel) (arg : Byte) (s t : State), exec (voltInstr ch arg) s = .next t →
    t.regs.sw &&& ~~~(chMask s.params ch) = s.regs.sw &&& ~~~(chMask s.params ch)

/-- NCH (R248, R136) completes: the prologue, then both FIFO configuration registers, `cfg.nch` and, under setting 1,
`ISO_PKTS` for 1 or 2, and nothing for another payload, then `Handled`. Every other field is as it was. -/
def Obligations.NchCommandProgramsBothFifosOrRejects : Prop :=
  ∀ (arg : Byte) (s : State) (d : DataStage) (l : List Input), CanTake s → PayloadComes d l s →
    ∃ t, exec (.nch arg) s = .next t ∧
      AgreesButWatch t (answered (mkWord kindVendorOut s.params.reqNch d.first) .handled
        (match channelCount d.first with
          | some n => afterSetChannelCount n (afterPrologue (taken l s))
          | none => afterPrologue (taken l s)))

/-- RATE (R247, R153, R157, R158) completes: the prologue, then the load of the profile found, the persisted rate and,
under setting 1, `ISO_PKTS`, and nothing for an identifier that is not in the table, then `Handled`. Every other field is
as it was. -/
def Obligations.RateCommandLoadsTheProfileOrRejects : Prop :=
  ∀ (arg : Byte) (s : State) (d : DataStage) (l : List Input), 120 ≤ s.params.progMemBytes →
    CanTake s → PayloadComes d l s →
    ∃ t, exec (.rate arg) s = .next t ∧
      AgreesButWatch t (answered (mkWord kindVendorOut s.params.reqRate d.first) .handled
        (match lookupProfile s.params d.first with
          | some p => afterSetSampleRate p (afterPrologue (taken l s))
          | none => afterPrologue (taken l s)))

/-- The image an accepted RATE leaves (R156): the profile's 24 bytes, 96 zeros, and every index from 120 on as it was. -/
def Obligations.RateCommandLeavesTheImage : Prop :=
  ∀ (arg : Byte) (s : State) (d : DataStage) (l : List Input) (p : Profile), 120 ≤ s.params.progMemBytes →
    CanTake s → PayloadComes d l s → lookupProfile s.params d.first = some p →
    ∃ t, exec (.rate arg) s = .next t ∧
      (∀ i, i < 24 → Memory.read i t.pm = p.image[i]?) ∧
      (∀ i, 24 ≤ i → i < 120 → Memory.read i t.pm = some 0) ∧
      (∀ i, 120 ≤ i → Memory.read i t.pm = Memory.read i s.pm)

/-- `lookup` (R152): under a table that meets its constraints, it answers the one profile with the identifier, or none. -/
def Obligations.LookupFindsTheUniqueProfile : Prop :=
  ∀ (P : Params) (id : Byte), P.TableOk →
    (∀ p, lookupProfile P id = some p ↔ p ∈ P.rateTable ∧ p.id = id) ∧
    (lookupProfile P id = none ↔ ∀ p ∈ P.rateTable, p.id ≠ id)

/-- SETALT (R252, R171) completes. For 0 and 1: the prologue on the old setting, the endpoints, the length pair of the
link speed read, and under setting 1 `ISO_PKTS`, then `Handled`, every other field as it was. For a setting above 1:
Refused(BadAlt) before the prologue, and nothing else. -/
def Obligations.SetAltCommandSelectsOrRefuses : Prop :=
  ∀ (a : Byte) (s : State), CanTake s → quiet s.inputs = true →
    ∃ t, exec (.setAlt a) s = .next t ∧
      AgreesButWatch t
        (match altSetting a with
          | some alt =>
            answered (mkWord kindStdOut reqSetInterface a) .handled
              (afterSelectInterface alt (afterPrologue (taken s.inputs s)))
          | none => { s with pendingSetup := none, fault := some .badAlt })

/-- The auto-adjust bit (R172) and its thresholds (R173). -/
def Obligations.AutoAdjustThresholds : Prop :=
  ∀ (c : AcqConfig),
    (aadj c = true ↔ c.rateKsps * countNat c.nch < 24000) ∧
    (c.nch = .two → (aadj c = true ↔ c.rateKsps < 12000)) ∧
    (c.nch = .one → (aadj c = true ↔ c.rateKsps < 24000))

/-- The byte written to `ISO_PKTS`: bit 7 is AADJ and bits 6 to 0 are `P.PPM(speed)` (R50, R175). -/
def Obligations.IsoPktsByteFields : Prop :=
  ∀ (P : Params) (c : AcqConfig) (sp : Speed),
    (isoPktsByte P c sp).getLsbD 7 = aadj c ∧ (isoPktsByte P c sp).extractLsb' 0 7 = ppm P sp

/-- GETALT (R253) completes: the events `Alt(cfg.alt)` and `Reply(w, Handled)`, and no stop and no indicator. -/
def Obligations.GetAltCommandAnswersTheSetting : Prop :=
  ∀ (arg : Byte) (s : State), CanTake s → quiet s.inputs = true →
    ∃ t, exec (.getAlt arg) s = .next t ∧
      AgreesButWatch t { s with
        pendingSetup := none
        ep0 := none
        trace := s.trace ++ [.alt s.cfg.alt, .reply (mkWord kindStdIn reqGetInterface arg) .handled] }

/-! ### Start and stop -/

/-- ACQ with a payload other than 1 (R249, R210) completes: `stop()`, then `Handled`; the indicator is as it was. -/
def Obligations.AcqOtherThanOneStops : Prop :=
  ∀ (arg : Byte) (s : State) (d : DataStage) (l : List Input), CanTake s → PayloadComes d l s → d.first ≠ 1 →
    ∃ t, exec (.acq arg) s = .next t ∧
      AgreesButWatch t (answered (mkWord kindVendorOut s.params.reqAcq d.first) .handled (afterStop (taken l s)))

/-- `stop()` is idempotent (R211): a second stop leaves every field but the trace as the first left it, and adds its three
events before its own reply. -/
def Obligations.StopTwiceIsStopOnce : Prop :=
  ∀ (arg : Byte) (s : State) (d : DataStage) (l : List Input), CanTake s → PayloadComes d [] s → d.first ≠ 1 →
    quiet l = true →
    ∃ t u, exec (.acq arg) s = .next t ∧ exec (.acq arg) { t with inputs := dataIn d :: l } = .next u ∧
      AgreesButWatch u { t with
        inputs := l
        trace := t.trace ++ stopEvents s.params s.cfg.alt ++
          [.reply (mkWord kindVendorOut s.params.reqAcq d.first) .handled] }

/-- ACQ 1 (R249, R212, R191) completes from a quiescent generator, or in the revision without the idle-gate wait, unless
the block runs and `P.START_WHILE_RUNNING` is Fault: the mandated reset sequence, the count, the trigger of the setting,
the streaming indicator, `Running`, then `Handled`. Every other field is as it was. -/
def Obligations.AcqOneStarts : Prop :=
  ∀ (arg : Byte) (s : State) (d : DataStage) (l : List Input), CanTake s → PayloadComes d l s → d.first = 1 →
    ¬ (s.acq = .running ∧ s.params.startWhileRunning = .fault) →
    (s.wfgPhase = .quiescent ∨ s.params.idleGateWait = false) →
    ∃ t, exec (.acq arg) s = .next t ∧
      AgreesButWatch t (answered (mkWord kindVendorOut s.params.reqAcq d.first) .handled (afterStart (taken l s)))

/-- ACQ 1 while the generator is not quiescent (R191, R194): it is held at the idle gate and, once the generator reaches
it, ends as from a quiescent one. -/
def Obligations.AcqOneWaitsForTheIdleGate : Prop :=
  ∀ (arg : Byte) (s : State) (d : DataStage) (l : List Input), CanTake s → s.ep0 = none → s.suspended = false →
    s.inputs = dataIn d :: quiesceIn :: l → quiet l = true → d.first = 1 →
    ¬ (s.acq = .running ∧ s.params.startWhileRunning = .fault) →
    s.wfgPhase ≠ .quiescent → s.params.idleGateWait = true →
    ∃ t, exec (.acq arg) s = .next t ∧
      AgreesButWatch t (answered (mkWord kindVendorOut s.params.reqAcq d.first) .handled (afterStart (taken l s)))

/-- A generator that never quiesces hangs a start (R194, R279): the abort is written, the block is held with no fault, and
every further step leaves it as it is. That a held block steps to itself is the model's choice (log entry 1). -/
def Obligations.AcqOneHangsWithoutTheIdleGate : Prop :=
  ∀ (arg : Byte) (s : State) (d : DataStage), CanTake s → PayloadComes d [] s → d.first = 1 →
    ¬ (s.acq = .running ∧ s.params.startWhileRunning = .fault) →
    s.wfgPhase ≠ .quiescent → s.params.idleGateWait = true →
    ∃ t, exec (.acq arg) s = .next t ∧ step t = .next t ∧
      AgreesButWatch t { s with
        pendingSetup := none
        inputs := []
        ep0 := some d
        wfgPhase := .aborting
        trace := s.trace ++ [.wr .wfgAbort s.params.abortVal]
        seq := .busy (.dispatch (mkWord kindVendorOut s.params.reqAcq d.first))
          ((startOps s.params s.cfg).drop 2 ++ [.reply .handled]) }

/-- ACQ 1 while running under `START_WHILE_RUNNING = Fault` (R213, R277): the fault is set before any write. That the rest
of the command is dropped and the position left Ready is the model's choice (log entry 27). -/
def Obligations.AcqOneWhileRunningFaults : Prop :=
  ∀ (arg : Byte) (s : State) (d : DataStage) (l : List Input), CanTake s → PayloadComes d l s → d.first = 1 →
    s.acq = .running → s.params.startWhileRunning = .fault →
    ∃ t, exec (.acq arg) s = .next t ∧
      AgreesButWatch t { s with
        pendingSetup := none, inputs := l, ep0 := some d, fault := some .startWhileRunning }

/-- With `IDLE_GATE_WAIT = true` no step of a block that meets its invariant locks up, whatever the environment does
meanwhile, and what rules it out is kept (R196). -/
def Obligations.NoLockupWithTheIdleGateWait : Prop :=
  ∀ (s t : State), BlockInv s → NoRace s → step s = .next t → NoRace t

/-- What rules a lock-up out holds at power-on wherever the sequence waits for the gate, and so at reset. -/
def Obligations.NoRaceAtReset : Prop :=
  (∀ (P : Params) (sp : Speed), P.idleGateWait = true → NoRace (State.powerOn P sp)) ∧ NoRace State.reset

/-- Without the wait, a start while the generator executes admits both a lock-up and the normal continuation (R195, R196):
which one happens is the environment's. -/
def Obligations.LockupAdmittedWithoutTheWait : Prop :=
  ∀ (arg : Byte) (s : State) (d : DataStage), CanTake s → WatchIdle s → s.ep0 = none → d.first = 1 →
    ¬ (s.acq = .running ∧ s.params.startWhileRunning = .fault) →
    s.wfgPhase = .executing → s.params.idleGateWait = false →
    (∃ l t, exec (.acq arg) { s with inputs := dataIn d :: l } = .next t ∧ t.fault = some .fifoLockup ∧ t.acq = s.acq) ∧
    (∃ l t, exec (.acq arg) { s with inputs := dataIn d :: l } = .next t ∧ t.fault = none ∧ t.acq = .running)

/-- Where R195 admits a lock-up: after a write of the reset sequence exactly when (i) no `SyncDelay` stands since the
previous register write, (ii) the sequence so far is not the beginning of the mandated one, or (iii) it is the first pulse
and the generator is not quiescent; the lock-up is then a step of the environment, and after any other register write or
where none of the three holds there is no such step. How long the window stays open is the model's choice (log entry
22). -/
def Obligations.LockupAdmittedWhereTheSequenceIsBroken : Prop :=
  (∀ (k : ResetStep) (s : State),
    ((resetWrite k s).watch.hazard = true ↔
      s.watch.delayed = false ∨ progressAfter k s.watch.progress = .broken ∨
        (k = .firstPulse ∧ s.wfgPhase ≠ .quiescent)) ∧
    (resetWrite k s).watch.progress = progressAfter k s.watch.progress) ∧
  (∀ ks : List ResetStep, ks.foldl (fun p k => progressAfter k p) .outside = .broken ↔ ¬ ks <+: resetSteps) ∧
  (∀ (r : Reg) (v : Byte) (s : State), (writeReg r v s).watch.hazard = false ∧ (writeReg r v s).watch.delayed = false ∧
    (writeReg r v s).watch.progress = s.watch.progress) ∧
  (∀ s : State, (s.watch.hazard = true → envStep .lockup s = raise .fifoLockup s) ∧
    (s.watch.hazard = false → envStep .lockup s = s))

/-! ### The other words -/

/-- VENDOR_UNKNOWN (R250) completes: the reply `Unhandled` and no data stage; no stop, no indicator, no wait. -/
def Obligations.UnknownVendorIsUnhandled : Prop :=
  ∀ (req arg : Byte) (s : State), CanTake s → quiet s.inputs = true →
    ∃ t, exec (.vendorUnknown req arg) s = .next t ∧
      AgreesButWatch t { s with
        pendingSetup := none
        ep0 := none
        trace := s.trace ++ [.reply (mkWord kindVendorOut req arg) .unhandled] }

/-- VENDOR_IN (R251, R278): its effect is to set Refused(VendorIn), before any write. -/
def Obligations.VendorInIsRefused : Prop :=
  ∀ (req arg : Byte) (s : State), CanTake s → quiet s.inputs = true →
    ∃ t, exec (.vendorIn req arg) s = .next t ∧
      AgreesButWatch t { s with pendingSetup := none, fault := some .vendorIn }

/-- A word the USB stack should have kept (R254): the step that takes it sets Refused(NotForBlock) and does nothing else;
taking it (R282) and raising the fault (R242) are two micro-operations, and a step of the environment can come in between
(R16), here a timer tick. -/
def Obligations.ForeignWordIsRefused : Prop :=
  ∀ (s : State) (w : Word24), CanTake s → s.booted = true → s.suspended = false → s.pendingSetup = some w →
    decode s.params w = .notForBlock →
    (quiet s.inputs = true →
      ∃ t, step s = .next t ∧ AgreesButWatch t { s with pendingSetup := none, fault := some .notForBlock }) ∧
    (∀ l, s.inputs = { due := .afterOps 1, ev := .timerTick } :: l → quiet l = true →
      ∃ t, step s = .next t ∧
        AgreesButWatch t { envStep .timerTick s with
          pendingSetup := none, inputs := l, fault := some .notForBlock })

/-- The command with a data stage the host never sends (R244, R279): a configuration command has performed its prologue, an
ACQ nothing, and the block is held for good. That a held block steps to itself is the model's choice (log entry 1). -/
def Obligations.MissingDataStageHoldsTheBlock : Prop :=
  ∀ (arg : Byte) (s : State), CanTake s → s.ep0 = none → s.inputs = [] →
    (∀ i k, (i, k) ∈ [(Instr.volt0 arg, PayloadUse.voltage .ch0), (.volt1 arg, .voltage .ch1), (.rate arg, .rate),
        (.nch arg, .channelCount)] →
      ∃ t, exec i s = .next t ∧ step t = .next t ∧
        AgreesButWatch t { afterPrologue (taken [] s) with
          seq := .busy (.dispatch (encode s.params i)) [.wait .payload, .readPayload k, .reply .handled] }) ∧
    (∃ t, exec (.acq arg) s = .next t ∧ step t = .next t ∧
      AgreesButWatch t { taken [] s with
        seq := .busy (.dispatch (encode s.params (.acq arg)))
          [.wait .payload, .readPayload .startStop, .reply .handled] })

/-! ### Whole-machine rules, for every interleaving -/

/-- Every configuration command stops first (R89, R217, R243): whatever the environment does meanwhile, unless a fault
stopped the block, acquisition is Idle after it and its first events are those of `stop()`. -/
def Obligations.ConfigCommandsStopFirst : Prop :=
  ∀ (i : Instr) (s t : State), isConfigCommand i = true → exec i s = .next t → t.fault = none →
    t.acq = .idle ∧ ∃ l, t.trace = s.trace ++ stopEvents s.params s.cfg.alt ++ l

/-- Each register group and each configuration field is written by its own commands only (R35, R53, R140, R178), whatever
the environment does meanwhile, and no command changes the parameters. -/
def Obligations.OnlyTheNamedCommandsWrite : Prop :=
  ∀ (i : Instr) (s t : State), exec i s = .next t →
    t.params = s.params ∧ t.booted = s.booted ∧
    ((∀ a, i ≠ .volt0 a) → t.vr0 = s.vr0) ∧
    ((∀ a, i ≠ .volt1 a) → t.vr1 = s.vr1) ∧
    ((∀ a, i ≠ .volt0 a ∧ i ≠ .volt1 a) → t.regs.sw = s.regs.sw) ∧
    ((∀ a, i ≠ .rate a) →
      t.pm = s.pm ∧ t.pmPtr = s.pmPtr ∧ t.cfg.rateId = s.cfg.rateId ∧ t.cfg.rateKsps = s.cfg.rateKsps ∧
      t.regs.ifconfig = s.regs.ifconfig ∧ t.regs.wfgReadycfg = s.regs.wfgReadycfg ∧
      t.regs.wfgCtlcfg = s.regs.wfgCtlcfg) ∧
    ((∀ a, i ≠ .nch a) → t.cfg.nch = s.cfg.nch) ∧
    ((∀ a, i ≠ .acq a) →
      t.regs.fiforeset = s.regs.fiforeset ∧ t.regs.wfgTrig = s.regs.wfgTrig ∧ t.regs.wfgTcH = s.regs.wfgTcH ∧
      t.regs.wfgTcL = s.regs.wfgTcL) ∧
    ((∀ a, i ≠ .nch a ∧ i ≠ .acq a) →
      t.regs.fifocfgBulk = s.regs.fifocfgBulk ∧ t.regs.fifocfgIso = s.regs.fifocfgIso) ∧
    ((∀ a, i ≠ .setAlt a) →
      t.cfg.alt = s.cfg.alt ∧ t.regs.epcfgBulk = s.regs.epcfgBulk ∧ t.regs.epcfgIso = s.regs.epcfgIso ∧
      t.regs.eplenBulkH = s.regs.eplenBulkH ∧ t.regs.eplenBulkL = s.regs.eplenBulkL ∧
      t.regs.eplenIsoH = s.regs.eplenIsoH ∧ t.regs.eplenIsoL = s.regs.eplenIsoL) ∧
    ((∀ a, i ≠ .rate a ∧ i ≠ .nch a ∧ i ≠ .setAlt a) → t.regs.isoPkts = s.regs.isoPkts)

/-- The transition table of R215, for every interleaving: only an ACQ enters Running, and an unknown vendor request, a
vendor device-to-host request and GETALT leave the acquisition state unchanged. -/
def Obligations.RunningIsEnteredByAcqOnly : Prop :=
  ∀ (i : Instr) (s t : State), exec i s = .next t →
    (t.acq = .running → s.acq = .running ∨ ∃ a, i = .acq a) ∧
    ((∃ r a, i = .vendorUnknown r a ∨ i = .vendorIn r a) ∨ (∃ a, i = .getAlt a) → t.acq = s.acq)

/-- Every command ends in exactly one reply, a hold or a fault (R241), for every interleaving: a block that is Ready again
with no fault has answered once, one that is not has not answered, and one that is neither Ready nor faulted is held: no
agent has a step. -/
def Obligations.OneReplyPerCommand : Prop :=
  ∀ (i : Instr) (s t : State), exec i s = .next t →
    (t.trace.countP (fun e => match e with | .reply _ _ => true | _ => false)) =
      (s.trace.countP (fun e => match e with | .reply _ _ => true | _ => false)) +
        (if t.seq = .ready ∧ t.fault = none then 1 else 0) ∧
    (t.seq ≠ .ready → t.fault = none → tick t = none)

/-- The trace only grows, and the registers and program memory follow from it (R66), at every step from every state. -/
def Obligations.RegistersFollowFromTheTrace : Prop :=
  ∀ (s t : State), step s = .next t →
    ∃ l, t.trace = s.trace ++ l ∧
      t.regs = l.foldl (fun g e => replayReg e g) s.regs ∧
      t.pm = l.foldl (fun m e => replayPm e m) s.pm

/-- No step changes the parameters (R10). -/
def Obligations.ParametersNeverChange : Prop :=
  ∀ (s t : State), step s = .next t → t.params = s.params

/-! ### Invariants -/

/-- Program memory stays in its canonical form and within `P.PROG_MEM_BYTES`, at every step from every such state
(R52, R80). -/
def Obligations.ProgramMemoryStaysCanonical : Prop :=
  ∀ (s t : State), PmOk s → step s = .next t → PmOk t

/-- Program memory is canonical at reset. -/
def Obligations.ProgramMemoryCanonicalAtReset : Prop := PmOk State.reset

/-- The invariant of the configured block is kept by every step, whatever inputs the environment has in store: the
configuration stays valid and the hardware agrees with it, the indicator is consistent, and the sequencer rests where R33
and R91 let it. -/
def Obligations.BlockInvariantIsKept : Prop :=
  ∀ (s t : State), BlockInv s → step s = .next t → BlockInv t

/-- The invariant holds at power-on, for all parameters within their constraints, and so at reset. -/
def Obligations.BlockInvariantAtReset : Prop :=
  (∀ (P : Params) (sp : Speed), P.Ok → BlockInv (State.powerOn P sp)) ∧ BlockInv State.reset
end

