-- ==== Sys2Proof/Laws/Encoding.lean ====
section
/-! SUPPORT. The fields of a command word. -/

namespace Sys2Proof

@[simp] theorem wordKind_mkWord (k r a : Byte) : wordKind (mkWord k r a) = k := by
  apply BitVec.eq_of_getLsbD_eq
  intro i hi
  simp [wordKind, mkWord, hi, show 16 + i < 24 by omega,
    BitVec.getLsbD_of_ge r (16 + i - 8) (by omega), BitVec.getLsbD_of_ge a (16 + i) (by omega)]

@[simp] theorem wordReq_mkWord (k r a : Byte) : wordReq (mkWord k r a) = r := by
  apply BitVec.eq_of_getLsbD_eq
  intro i hi
  simp [wordReq, mkWord, hi, show 8 + i < 16 by omega, show 8 + i < 24 by omega]

@[simp] theorem wordArg_mkWord (k r a : Byte) : wordArg (mkWord k r a) = a := by
  apply BitVec.eq_of_getLsbD_eq
  intro i hi
  simp [wordArg, mkWord, hi, show i < 16 by omega, show i < 24 by omega]

/-- A word is made of its three fields. -/
theorem mkWord_fields (w : Word24) : mkWord (wordKind w) (wordReq w) (wordArg w) = w := by
  apply BitVec.eq_of_getLsbD_eq
  intro i hi
  by_cases h8 : i < 8
  · simp [wordKind, wordReq, wordArg, mkWord, hi, h8, show i < 16 by omega]
  · by_cases h16 : i < 16
    · simp [wordKind, wordReq, wordArg, mkWord, hi, h8, h16, show i - 8 < 8 by omega, show 8 + (i - 8) = i by omega]
    · simp [wordKind, wordReq, wordArg, mkWord, hi, h8, h16, show i - 16 < 8 by omega, show ¬ i - 8 < 8 by omega,
        show 16 + (i - 16) = i by omega]

@[simp] theorem setArg_mkWord (k r a b : Byte) : setArg (mkWord k r a) b = mkWord k r b := by
  simp [setArg]

end Sys2Proof
end

