-- ==== Sys2Proof/Laws/Memory.lean ====
section
/-! SUPPORT. Program memory: a read after a write, and the canonical form every write keeps. -/

namespace Sys2Proof.Machine

theorem Memory.read_write_same (a : Nat) (v : Byte) (m : Memory) : Memory.read a (Memory.write a v m) = some v := by
  induction m with
  | nil => simp [Memory.write, Memory.read]
  | cons c m ih =>
    obtain ⟨b, u⟩ := c
    simp only [Memory.write]
    split
    · simp [Memory.read]
    · split
      · simp [Memory.read]
      · next h => simp [Memory.read, h, ih]

theorem Memory.read_write_other {a b : Nat} (h : b ≠ a) (v : Byte) (m : Memory) :
    Memory.read b (Memory.write a v m) = Memory.read b m := by
  induction m with
  | nil => simp [Memory.write, Memory.read, h]
  | cons c m ih =>
    obtain ⟨k, u⟩ := c
    simp only [Memory.write]
    split
    · simp [Memory.read, h]
    · split
      · next hk => subst hk; simp [Memory.read, h]
      · simp [Memory.read, ih]

/-- What a write does to every index. -/
theorem Memory.read_write (a b : Nat) (v : Byte) (m : Memory) :
    Memory.read b (Memory.write a v m) = if b = a then some v else Memory.read b m := by
  split
  · next h => subst h; exact Memory.read_write_same b v m
  · next h => exact Memory.read_write_other h v m

/-- The indices a write leaves listed: its own, and those listed before. -/
theorem Memory.mem_write {a : Nat} {v : Byte} {m : Memory} {c : Host.Cell} (h : c ∈ Memory.write a v m) :
    c = (a, v) ∨ c ∈ m := by
  induction m with
  | nil => simpa [Memory.write] using h
  | cons k m ih =>
    obtain ⟨b, u⟩ := k
    simp only [Memory.write] at h
    split at h
    · simpa using h
    · split at h
      · rcases List.mem_cons.mp h with h | h
        · exact .inl h
        · exact .inr (List.mem_cons_of_mem _ h)
      · rcases List.mem_cons.mp h with h | h
        · exact .inr (h ▸ List.mem_cons_self)
        · exact (ih h).imp_right (List.mem_cons_of_mem _)

theorem Memory.wf_write {m : Memory} (h : Memory.wf m) (a : Nat) (v : Byte) : Memory.wf (Memory.write a v m) := by
  induction m with
  | nil => simp [Memory.wf, Memory.write]
  | cons c m ih =>
    obtain ⟨b, u⟩ := c
    have hb : ∀ x ∈ m, b < x.1 := by
      intro x hx
      simp only [Memory.wf, List.map_cons, List.pairwise_cons] at h
      exact h.1 x.1 (List.mem_map_of_mem hx)
    have hm : Memory.wf m := by
      simp only [Memory.wf, List.map_cons, List.pairwise_cons] at h
      exact h.2
    simp only [Memory.write]
    split
    · next hab =>
      simp only [Memory.wf, List.map_cons, List.pairwise_cons, List.mem_cons, List.mem_map]
      refine ⟨?_, ?_, hm⟩
      · rintro x (rfl | ⟨y, hy, rfl⟩)
        · exact hab
        · exact hab.trans (hb y hy)
      · rintro x ⟨y, hy, rfl⟩
        exact hb y hy
    · split
      · next hab =>
        subst hab
        simp only [Memory.wf, List.map_cons, List.pairwise_cons, List.mem_map]
        exact ⟨by rintro x ⟨y, hy, rfl⟩; exact hb y hy, hm⟩
      · next hlt hne =>
        simp only [Memory.wf, List.map_cons, List.pairwise_cons, List.mem_map]
        refine ⟨?_, ih hm⟩
        rintro x ⟨y, hy, rfl⟩
        rcases Memory.mem_write hy with rfl | hy
        · show b < a
          omega
        · exact hb y hy

theorem Memory.within_write {n : Nat} {m : Memory} (h : Memory.within n m) {a : Nat} (ha : a < n) (v : Byte) :
    Memory.within n (Memory.write a v m) := by
  intro c hc
  rcases Memory.mem_write hc with rfl | hc
  · exact ha
  · exact h c hc

/-- The bytes written from index `a` on, read back. -/
theorem read_writeBytes (l : List Byte) (a : Nat) (m : Memory) (i : Nat) :
    Memory.read i (writeBytes a l m) =
      if a ≤ i ∧ i < a + l.length then l[i - a]? else Memory.read i m := by
  induction l generalizing a m with
  | nil => simp only [writeBytes, List.length_nil]; split <;> [omega; rfl]
  | cons v l ih =>
    simp only [writeBytes, ih, List.length_cons, Memory.read_write]
    by_cases h0 : i = a
    · subst h0
      simp
    · by_cases h1 : a + 1 ≤ i ∧ i < a + 1 + l.length
      · have h2 : a ≤ i ∧ i < a + (l.length + 1) := by omega
        have h3 : i - a = (i - (a + 1)) + 1 := by omega
        simp [h1, h2, h3]
      · have h2 : ¬ (a ≤ i ∧ i < a + (l.length + 1)) := by omega
        rw [if_neg h1, if_neg h0, if_neg h2]

@[simp] theorem programImage_length (p : Profile) : (programImage p).length = 120 := by simp [programImage]

/-- Program memory is canonical and within its size at power-on. -/
theorem pmOk_powerOn (P : Params) (sp : Speed) : PmOk (State.powerOn P sp) := by
  refine ⟨?_, ?_⟩ <;> simp [State.powerOn, Memory.wf, Memory.within]

end Sys2Proof.Machine
end

