-- ==== Sys2Proof/Laws/State.lean ====
section
/-! SUPPORT. Each field of each named state update, true by rfl: no later proof unfolds a record update. -/

namespace Sys2Proof.Machine

/-! ### emit -/

@[simp] theorem emit_params (e : Event) (s : State) : (emit e s).params = s.params := rfl
@[simp] theorem emit_acq (e : Event) (s : State) : (emit e s).acq = s.acq := rfl
@[simp] theorem emit_seq (e : Event) (s : State) : (emit e s).seq = s.seq := rfl
@[simp] theorem emit_cfg (e : Event) (s : State) : (emit e s).cfg = s.cfg := rfl
@[simp] theorem emit_vr0 (e : Event) (s : State) : (emit e s).vr0 = s.vr0 := rfl
@[simp] theorem emit_vr1 (e : Event) (s : State) : (emit e s).vr1 = s.vr1 := rfl
@[simp] theorem emit_regs (e : Event) (s : State) : (emit e s).regs = s.regs := rfl
@[simp] theorem emit_pm (e : Event) (s : State) : (emit e s).pm = s.pm := rfl
@[simp] theorem emit_pmPtr (e : Event) (s : State) : (emit e s).pmPtr = s.pmPtr := rfl
@[simp] theorem emit_pendingSetup (e : Event) (s : State) : (emit e s).pendingSetup = s.pendingSetup := rfl
@[simp] theorem emit_pendingSuspend (e : Event) (s : State) : (emit e s).pendingSuspend = s.pendingSuspend := rfl
@[simp] theorem emit_wfgPhase (e : Event) (s : State) : (emit e s).wfgPhase = s.wfgPhase := rfl
@[simp] theorem emit_fifoBulk (e : Event) (s : State) : (emit e s).fifoBulk = s.fifoBulk := rfl
@[simp] theorem emit_fifoIso (e : Event) (s : State) : (emit e s).fifoIso = s.fifoIso := rfl
@[simp] theorem emit_ep0 (e : Event) (s : State) : (emit e s).ep0 = s.ep0 := rfl
@[simp] theorem emit_speed (e : Event) (s : State) : (emit e s).speed = s.speed := rfl
@[simp] theorem emit_suspended (e : Event) (s : State) : (emit e s).suspended = s.suspended := rfl
@[simp] theorem emit_wake (e : Event) (s : State) : (emit e s).wake = s.wake := rfl
@[simp] theorem emit_led (e : Event) (s : State) : (emit e s).led = s.led := rfl
@[simp] theorem emit_ledcnt (e : Event) (s : State) : (emit e s).ledcnt = s.ledcnt := rfl
@[simp] theorem emit_trace (e : Event) (s : State) : (emit e s).trace = s.trace ++ [e] := rfl
@[simp] theorem emit_fault (e : Event) (s : State) : (emit e s).fault = s.fault := rfl
@[simp] theorem emit_booted (e : Event) (s : State) : (emit e s).booted = s.booted := rfl
@[simp] theorem emit_watch (e : Event) (s : State) : (emit e s).watch = s.watch := rfl
@[simp] theorem emit_inputs (e : Event) (s : State) : (emit e s).inputs = s.inputs := rfl

/-! ### raise -/

@[simp] theorem raise_params (f : StickyFault) (s : State) : (raise f s).params = s.params := rfl
@[simp] theorem raise_acq (f : StickyFault) (s : State) : (raise f s).acq = s.acq := rfl
@[simp] theorem raise_seq (f : StickyFault) (s : State) : (raise f s).seq = .ready := rfl
@[simp] theorem raise_cfg (f : StickyFault) (s : State) : (raise f s).cfg = s.cfg := rfl
@[simp] theorem raise_vr0 (f : StickyFault) (s : State) : (raise f s).vr0 = s.vr0 := rfl
@[simp] theorem raise_vr1 (f : StickyFault) (s : State) : (raise f s).vr1 = s.vr1 := rfl
@[simp] theorem raise_regs (f : StickyFault) (s : State) : (raise f s).regs = s.regs := rfl
@[simp] theorem raise_pm (f : StickyFault) (s : State) : (raise f s).pm = s.pm := rfl
@[simp] theorem raise_pmPtr (f : StickyFault) (s : State) : (raise f s).pmPtr = s.pmPtr := rfl
@[simp] theorem raise_pendingSetup (f : StickyFault) (s : State) : (raise f s).pendingSetup = s.pendingSetup := rfl
@[simp] theorem raise_pendingSuspend (f : StickyFault) (s : State) : (raise f s).pendingSuspend = s.pendingSuspend := rfl
@[simp] theorem raise_wfgPhase (f : StickyFault) (s : State) : (raise f s).wfgPhase = s.wfgPhase := rfl
@[simp] theorem raise_fifoBulk (f : StickyFault) (s : State) : (raise f s).fifoBulk = s.fifoBulk := rfl
@[simp] theorem raise_fifoIso (f : StickyFault) (s : State) : (raise f s).fifoIso = s.fifoIso := rfl
@[simp] theorem raise_ep0 (f : StickyFault) (s : State) : (raise f s).ep0 = s.ep0 := rfl
@[simp] theorem raise_speed (f : StickyFault) (s : State) : (raise f s).speed = s.speed := rfl
@[simp] theorem raise_suspended (f : StickyFault) (s : State) : (raise f s).suspended = s.suspended := rfl
@[simp] theorem raise_wake (f : StickyFault) (s : State) : (raise f s).wake = s.wake := rfl
@[simp] theorem raise_led (f : StickyFault) (s : State) : (raise f s).led = s.led := rfl
@[simp] theorem raise_ledcnt (f : StickyFault) (s : State) : (raise f s).ledcnt = s.ledcnt := rfl
@[simp] theorem raise_trace (f : StickyFault) (s : State) : (raise f s).trace = s.trace := rfl
@[simp] theorem raise_fault (f : StickyFault) (s : State) : (raise f s).fault = some f := rfl
@[simp] theorem raise_booted (f : StickyFault) (s : State) : (raise f s).booted = s.booted := rfl
@[simp] theorem raise_watch (f : StickyFault) (s : State) : (raise f s).watch = s.watch := rfl
@[simp] theorem raise_inputs (f : StickyFault) (s : State) : (raise f s).inputs = s.inputs := rfl

/-! ### counted -/

@[simp] theorem counted_params (s : State) : (counted s).params = s.params := rfl
@[simp] theorem counted_acq (s : State) : (counted s).acq = s.acq := rfl
@[simp] theorem counted_seq (s : State) : (counted s).seq = s.seq := rfl
@[simp] theorem counted_cfg (s : State) : (counted s).cfg = s.cfg := rfl
@[simp] theorem counted_vr0 (s : State) : (counted s).vr0 = s.vr0 := rfl
@[simp] theorem counted_vr1 (s : State) : (counted s).vr1 = s.vr1 := rfl
@[simp] theorem counted_regs (s : State) : (counted s).regs = s.regs := rfl
@[simp] theorem counted_pm (s : State) : (counted s).pm = s.pm := rfl
@[simp] theorem counted_pmPtr (s : State) : (counted s).pmPtr = s.pmPtr := rfl
@[simp] theorem counted_pendingSetup (s : State) : (counted s).pendingSetup = s.pendingSetup := rfl
@[simp] theorem counted_pendingSuspend (s : State) : (counted s).pendingSuspend = s.pendingSuspend := rfl
@[simp] theorem counted_wfgPhase (s : State) : (counted s).wfgPhase = s.wfgPhase := rfl
@[simp] theorem counted_fifoBulk (s : State) : (counted s).fifoBulk = s.fifoBulk := rfl
@[simp] theorem counted_fifoIso (s : State) : (counted s).fifoIso = s.fifoIso := rfl
@[simp] theorem counted_ep0 (s : State) : (counted s).ep0 = s.ep0 := rfl
@[simp] theorem counted_speed (s : State) : (counted s).speed = s.speed := rfl
@[simp] theorem counted_suspended (s : State) : (counted s).suspended = s.suspended := rfl
@[simp] theorem counted_wake (s : State) : (counted s).wake = s.wake := rfl
@[simp] theorem counted_led (s : State) : (counted s).led = s.led := rfl
@[simp] theorem counted_ledcnt (s : State) : (counted s).ledcnt = s.ledcnt := rfl
@[simp] theorem counted_trace (s : State) : (counted s).trace = s.trace := rfl
@[simp] theorem counted_fault (s : State) : (counted s).fault = s.fault := rfl
@[simp] theorem counted_booted (s : State) : (counted s).booted = s.booted := rfl
@[simp] theorem counted_watch (s : State) : (counted s).watch = s.watch := rfl
@[simp] theorem counted_inputs (s : State) : (counted s).inputs = countOp s.inputs := rfl

/-! ### closeHazard -/

@[simp] theorem closeHazard_params (s : State) : (closeHazard s).params = s.params := rfl
@[simp] theorem closeHazard_acq (s : State) : (closeHazard s).acq = s.acq := rfl
@[simp] theorem closeHazard_seq (s : State) : (closeHazard s).seq = s.seq := rfl
@[simp] theorem closeHazard_cfg (s : State) : (closeHazard s).cfg = s.cfg := rfl
@[simp] theorem closeHazard_vr0 (s : State) : (closeHazard s).vr0 = s.vr0 := rfl
@[simp] theorem closeHazard_vr1 (s : State) : (closeHazard s).vr1 = s.vr1 := rfl
@[simp] theorem closeHazard_regs (s : State) : (closeHazard s).regs = s.regs := rfl
@[simp] theorem closeHazard_pm (s : State) : (closeHazard s).pm = s.pm := rfl
@[simp] theorem closeHazard_pmPtr (s : State) : (closeHazard s).pmPtr = s.pmPtr := rfl
@[simp] theorem closeHazard_pendingSetup (s : State) : (closeHazard s).pendingSetup = s.pendingSetup := rfl
@[simp] theorem closeHazard_pendingSuspend (s : State) : (closeHazard s).pendingSuspend = s.pendingSuspend := rfl
@[simp] theorem closeHazard_wfgPhase (s : State) : (closeHazard s).wfgPhase = s.wfgPhase := rfl
@[simp] theorem closeHazard_fifoBulk (s : State) : (closeHazard s).fifoBulk = s.fifoBulk := rfl
@[simp] theorem closeHazard_fifoIso (s : State) : (closeHazard s).fifoIso = s.fifoIso := rfl
@[simp] theorem closeHazard_ep0 (s : State) : (closeHazard s).ep0 = s.ep0 := rfl
@[simp] theorem closeHazard_speed (s : State) : (closeHazard s).speed = s.speed := rfl
@[simp] theorem closeHazard_suspended (s : State) : (closeHazard s).suspended = s.suspended := rfl
@[simp] theorem closeHazard_wake (s : State) : (closeHazard s).wake = s.wake := rfl
@[simp] theorem closeHazard_led (s : State) : (closeHazard s).led = s.led := rfl
@[simp] theorem closeHazard_ledcnt (s : State) : (closeHazard s).ledcnt = s.ledcnt := rfl
@[simp] theorem closeHazard_trace (s : State) : (closeHazard s).trace = s.trace := rfl
@[simp] theorem closeHazard_fault (s : State) : (closeHazard s).fault = s.fault := rfl
@[simp] theorem closeHazard_booted (s : State) : (closeHazard s).booted = s.booted := rfl
@[simp] theorem closeHazard_watch (s : State) : (closeHazard s).watch = { s.watch with hazard := false } := rfl
@[simp] theorem closeHazard_inputs (s : State) : (closeHazard s).inputs = s.inputs := rfl

/-! ### syncDelay -/

@[simp] theorem syncDelay_params (s : State) : (syncDelay s).params = s.params := rfl
@[simp] theorem syncDelay_acq (s : State) : (syncDelay s).acq = s.acq := rfl
@[simp] theorem syncDelay_seq (s : State) : (syncDelay s).seq = s.seq := rfl
@[simp] theorem syncDelay_cfg (s : State) : (syncDelay s).cfg = s.cfg := rfl
@[simp] theorem syncDelay_vr0 (s : State) : (syncDelay s).vr0 = s.vr0 := rfl
@[simp] theorem syncDelay_vr1 (s : State) : (syncDelay s).vr1 = s.vr1 := rfl
@[simp] theorem syncDelay_regs (s : State) : (syncDelay s).regs = s.regs := rfl
@[simp] theorem syncDelay_pm (s : State) : (syncDelay s).pm = s.pm := rfl
@[simp] theorem syncDelay_pmPtr (s : State) : (syncDelay s).pmPtr = s.pmPtr := rfl
@[simp] theorem syncDelay_pendingSetup (s : State) : (syncDelay s).pendingSetup = s.pendingSetup := rfl
@[simp] theorem syncDelay_pendingSuspend (s : State) : (syncDelay s).pendingSuspend = s.pendingSuspend := rfl
@[simp] theorem syncDelay_wfgPhase (s : State) : (syncDelay s).wfgPhase = s.wfgPhase := rfl
@[simp] theorem syncDelay_fifoBulk (s : State) : (syncDelay s).fifoBulk = s.fifoBulk := rfl
@[simp] theorem syncDelay_fifoIso (s : State) : (syncDelay s).fifoIso = s.fifoIso := rfl
@[simp] theorem syncDelay_ep0 (s : State) : (syncDelay s).ep0 = s.ep0 := rfl
@[simp] theorem syncDelay_speed (s : State) : (syncDelay s).speed = s.speed := rfl
@[simp] theorem syncDelay_suspended (s : State) : (syncDelay s).suspended = s.suspended := rfl
@[simp] theorem syncDelay_wake (s : State) : (syncDelay s).wake = s.wake := rfl
@[simp] theorem syncDelay_led (s : State) : (syncDelay s).led = s.led := rfl
@[simp] theorem syncDelay_ledcnt (s : State) : (syncDelay s).ledcnt = s.ledcnt := rfl
@[simp] theorem syncDelay_trace (s : State) : (syncDelay s).trace = s.trace := rfl
@[simp] theorem syncDelay_fault (s : State) : (syncDelay s).fault = s.fault := rfl
@[simp] theorem syncDelay_booted (s : State) : (syncDelay s).booted = s.booted := rfl
@[simp] theorem syncDelay_watch (s : State) : (syncDelay s).watch = { s.watch with delayed := true } := rfl
@[simp] theorem syncDelay_inputs (s : State) : (syncDelay s).inputs = s.inputs := rfl

/-! ### writeReg -/

@[simp] theorem writeReg_params (r : Reg) (v : Byte) (s : State) : (writeReg r v s).params = s.params := rfl
@[simp] theorem writeReg_acq (r : Reg) (v : Byte) (s : State) : (writeReg r v s).acq = s.acq := rfl
@[simp] theorem writeReg_seq (r : Reg) (v : Byte) (s : State) : (writeReg r v s).seq = s.seq := rfl
@[simp] theorem writeReg_cfg (r : Reg) (v : Byte) (s : State) : (writeReg r v s).cfg = s.cfg := rfl
@[simp] theorem writeReg_vr0 (r : Reg) (v : Byte) (s : State) : (writeReg r v s).vr0 = s.vr0 := rfl
@[simp] theorem writeReg_vr1 (r : Reg) (v : Byte) (s : State) : (writeReg r v s).vr1 = s.vr1 := rfl
@[simp] theorem writeReg_regs (r : Reg) (v : Byte) (s : State) : (writeReg r v s).regs = regsWrite r v s.regs := rfl
@[simp] theorem writeReg_pm (r : Reg) (v : Byte) (s : State) : (writeReg r v s).pm = s.pm := rfl
@[simp] theorem writeReg_pmPtr (r : Reg) (v : Byte) (s : State) : (writeReg r v s).pmPtr = s.pmPtr := rfl
@[simp] theorem writeReg_pendingSetup (r : Reg) (v : Byte) (s : State) : (writeReg r v s).pendingSetup = s.pendingSetup := rfl
@[simp] theorem writeReg_pendingSuspend (r : Reg) (v : Byte) (s : State) : (writeReg r v s).pendingSuspend = s.pendingSuspend := rfl
@[simp] theorem writeReg_wfgPhase (r : Reg) (v : Byte) (s : State) : (writeReg r v s).wfgPhase = phaseAfter r s.wfgPhase := rfl
@[simp] theorem writeReg_fifoBulk (r : Reg) (v : Byte) (s : State) : (writeReg r v s).fifoBulk = fifoBulkAfter r s.cfg.alt s.fifoBulk := rfl
@[simp] theorem writeReg_fifoIso (r : Reg) (v : Byte) (s : State) : (writeReg r v s).fifoIso = fifoIsoAfter r s.cfg.alt s.fifoIso := rfl
@[simp] theorem writeReg_ep0 (r : Reg) (v : Byte) (s : State) : (writeReg r v s).ep0 = s.ep0 := rfl
@[simp] theorem writeReg_speed (r : Reg) (v : Byte) (s : State) : (writeReg r v s).speed = s.speed := rfl
@[simp] theorem writeReg_suspended (r : Reg) (v : Byte) (s : State) : (writeReg r v s).suspended = s.suspended := rfl
@[simp] theorem writeReg_wake (r : Reg) (v : Byte) (s : State) : (writeReg r v s).wake = s.wake := rfl
@[simp] theorem writeReg_led (r : Reg) (v : Byte) (s : State) : (writeReg r v s).led = s.led := rfl
@[simp] theorem writeReg_ledcnt (r : Reg) (v : Byte) (s : State) : (writeReg r v s).ledcnt = s.ledcnt := rfl
@[simp] theorem writeReg_trace (r : Reg) (v : Byte) (s : State) : (writeReg r v s).trace = s.trace ++ writeEvents r v s.cfg.alt := rfl
@[simp] theorem writeReg_fault (r : Reg) (v : Byte) (s : State) : (writeReg r v s).fault = s.fault := rfl
@[simp] theorem writeReg_booted (r : Reg) (v : Byte) (s : State) : (writeReg r v s).booted = s.booted := rfl
@[simp] theorem writeReg_watch (r : Reg) (v : Byte) (s : State) : (writeReg r v s).watch = watchWrite s.watch := rfl
@[simp] theorem writeReg_inputs (r : Reg) (v : Byte) (s : State) : (writeReg r v s).inputs = s.inputs := rfl

/-! ### resetWrite -/

@[simp] theorem resetWrite_params (k : ResetStep) (s : State) : (resetWrite k s).params = s.params := rfl
@[simp] theorem resetWrite_acq (k : ResetStep) (s : State) : (resetWrite k s).acq = s.acq := rfl
@[simp] theorem resetWrite_seq (k : ResetStep) (s : State) : (resetWrite k s).seq = s.seq := rfl
@[simp] theorem resetWrite_cfg (k : ResetStep) (s : State) : (resetWrite k s).cfg = s.cfg := rfl
@[simp] theorem resetWrite_vr0 (k : ResetStep) (s : State) : (resetWrite k s).vr0 = s.vr0 := rfl
@[simp] theorem resetWrite_vr1 (k : ResetStep) (s : State) : (resetWrite k s).vr1 = s.vr1 := rfl
@[simp] theorem resetWrite_regs (k : ResetStep) (s : State) : (resetWrite k s).regs = regsWrite (resetReg k) (resetByte s.params s.cfg.nch k) s.regs := rfl
@[simp] theorem resetWrite_pm (k : ResetStep) (s : State) : (resetWrite k s).pm = s.pm := rfl
@[simp] theorem resetWrite_pmPtr (k : ResetStep) (s : State) : (resetWrite k s).pmPtr = s.pmPtr := rfl
@[simp] theorem resetWrite_pendingSetup (k : ResetStep) (s : State) : (resetWrite k s).pendingSetup = s.pendingSetup := rfl
@[simp] theorem resetWrite_pendingSuspend (k : ResetStep) (s : State) : (resetWrite k s).pendingSuspend = s.pendingSuspend := rfl
@[simp] theorem resetWrite_wfgPhase (k : ResetStep) (s : State) : (resetWrite k s).wfgPhase = phaseAfter (resetReg k) s.wfgPhase := rfl
@[simp] theorem resetWrite_fifoBulk (k : ResetStep) (s : State) : (resetWrite k s).fifoBulk = fifoBulkAfter (resetReg k) s.cfg.alt s.fifoBulk := rfl
@[simp] theorem resetWrite_fifoIso (k : ResetStep) (s : State) : (resetWrite k s).fifoIso = fifoIsoAfter (resetReg k) s.cfg.alt s.fifoIso := rfl
@[simp] theorem resetWrite_ep0 (k : ResetStep) (s : State) : (resetWrite k s).ep0 = s.ep0 := rfl
@[simp] theorem resetWrite_speed (k : ResetStep) (s : State) : (resetWrite k s).speed = s.speed := rfl
@[simp] theorem resetWrite_suspended (k : ResetStep) (s : State) : (resetWrite k s).suspended = s.suspended := rfl
@[simp] theorem resetWrite_wake (k : ResetStep) (s : State) : (resetWrite k s).wake = s.wake := rfl
@[simp] theorem resetWrite_led (k : ResetStep) (s : State) : (resetWrite k s).led = s.led := rfl
@[simp] theorem resetWrite_ledcnt (k : ResetStep) (s : State) : (resetWrite k s).ledcnt = s.ledcnt := rfl
@[simp] theorem resetWrite_trace (k : ResetStep) (s : State) : (resetWrite k s).trace = s.trace ++ writeEvents (resetReg k) (resetByte s.params s.cfg.nch k) s.cfg.alt := rfl
@[simp] theorem resetWrite_fault (k : ResetStep) (s : State) : (resetWrite k s).fault = s.fault := rfl
@[simp] theorem resetWrite_booted (k : ResetStep) (s : State) : (resetWrite k s).booted = s.booted := rfl
@[simp] theorem resetWrite_watch (k : ResetStep) (s : State) : (resetWrite k s).watch = watchReset s.wfgPhase k s.watch := rfl
@[simp] theorem resetWrite_inputs (k : ResetStep) (s : State) : (resetWrite k s).inputs = s.inputs := rfl

/-! ### emptyFifos -/

@[simp] theorem emptyFifos_params (s : State) : (emptyFifos s).params = s.params := rfl
@[simp] theorem emptyFifos_acq (s : State) : (emptyFifos s).acq = s.acq := rfl
@[simp] theorem emptyFifos_seq (s : State) : (emptyFifos s).seq = s.seq := rfl
@[simp] theorem emptyFifos_cfg (s : State) : (emptyFifos s).cfg = s.cfg := rfl
@[simp] theorem emptyFifos_vr0 (s : State) : (emptyFifos s).vr0 = s.vr0 := rfl
@[simp] theorem emptyFifos_vr1 (s : State) : (emptyFifos s).vr1 = s.vr1 := rfl
@[simp] theorem emptyFifos_regs (s : State) : (emptyFifos s).regs = s.regs := rfl
@[simp] theorem emptyFifos_pm (s : State) : (emptyFifos s).pm = s.pm := rfl
@[simp] theorem emptyFifos_pmPtr (s : State) : (emptyFifos s).pmPtr = s.pmPtr := rfl
@[simp] theorem emptyFifos_pendingSetup (s : State) : (emptyFifos s).pendingSetup = s.pendingSetup := rfl
@[simp] theorem emptyFifos_pendingSuspend (s : State) : (emptyFifos s).pendingSuspend = s.pendingSuspend := rfl
@[simp] theorem emptyFifos_wfgPhase (s : State) : (emptyFifos s).wfgPhase = s.wfgPhase := rfl
@[simp] theorem emptyFifos_fifoBulk (s : State) : (emptyFifos s).fifoBulk = .empty := rfl
@[simp] theorem emptyFifos_fifoIso (s : State) : (emptyFifos s).fifoIso = .empty := rfl
@[simp] theorem emptyFifos_ep0 (s : State) : (emptyFifos s).ep0 = s.ep0 := rfl
@[simp] theorem emptyFifos_speed (s : State) : (emptyFifos s).speed = s.speed := rfl
@[simp] theorem emptyFifos_suspended (s : State) : (emptyFifos s).suspended = s.suspended := rfl
@[simp] theorem emptyFifos_wake (s : State) : (emptyFifos s).wake = s.wake := rfl
@[simp] theorem emptyFifos_led (s : State) : (emptyFifos s).led = s.led := rfl
@[simp] theorem emptyFifos_ledcnt (s : State) : (emptyFifos s).ledcnt = s.ledcnt := rfl
@[simp] theorem emptyFifos_trace (s : State) : (emptyFifos s).trace = s.trace := rfl
@[simp] theorem emptyFifos_fault (s : State) : (emptyFifos s).fault = s.fault := rfl
@[simp] theorem emptyFifos_booted (s : State) : (emptyFifos s).booted = s.booted := rfl
@[simp] theorem emptyFifos_watch (s : State) : (emptyFifos s).watch = watchEnd s.watch := rfl
@[simp] theorem emptyFifos_inputs (s : State) : (emptyFifos s).inputs = s.inputs := rfl

/-! ### takeWord -/

@[simp] theorem takeWord_params (w : Word24) (ops : List Micro) (s : State) : (takeWord w ops s).params = s.params := rfl
@[simp] theorem takeWord_acq (w : Word24) (ops : List Micro) (s : State) : (takeWord w ops s).acq = s.acq := rfl
@[simp] theorem takeWord_seq (w : Word24) (ops : List Micro) (s : State) : (takeWord w ops s).seq = .busy (.dispatch w) ops := rfl
@[simp] theorem takeWord_cfg (w : Word24) (ops : List Micro) (s : State) : (takeWord w ops s).cfg = s.cfg := rfl
@[simp] theorem takeWord_vr0 (w : Word24) (ops : List Micro) (s : State) : (takeWord w ops s).vr0 = s.vr0 := rfl
@[simp] theorem takeWord_vr1 (w : Word24) (ops : List Micro) (s : State) : (takeWord w ops s).vr1 = s.vr1 := rfl
@[simp] theorem takeWord_regs (w : Word24) (ops : List Micro) (s : State) : (takeWord w ops s).regs = s.regs := rfl
@[simp] theorem takeWord_pm (w : Word24) (ops : List Micro) (s : State) : (takeWord w ops s).pm = s.pm := rfl
@[simp] theorem takeWord_pmPtr (w : Word24) (ops : List Micro) (s : State) : (takeWord w ops s).pmPtr = s.pmPtr := rfl
@[simp] theorem takeWord_pendingSetup (w : Word24) (ops : List Micro) (s : State) : (takeWord w ops s).pendingSetup = none := rfl
@[simp] theorem takeWord_pendingSuspend (w : Word24) (ops : List Micro) (s : State) : (takeWord w ops s).pendingSuspend = s.pendingSuspend := rfl
@[simp] theorem takeWord_wfgPhase (w : Word24) (ops : List Micro) (s : State) : (takeWord w ops s).wfgPhase = s.wfgPhase := rfl
@[simp] theorem takeWord_fifoBulk (w : Word24) (ops : List Micro) (s : State) : (takeWord w ops s).fifoBulk = s.fifoBulk := rfl
@[simp] theorem takeWord_fifoIso (w : Word24) (ops : List Micro) (s : State) : (takeWord w ops s).fifoIso = s.fifoIso := rfl
@[simp] theorem takeWord_ep0 (w : Word24) (ops : List Micro) (s : State) : (takeWord w ops s).ep0 = s.ep0 := rfl
@[simp] theorem takeWord_speed (w : Word24) (ops : List Micro) (s : State) : (takeWord w ops s).speed = s.speed := rfl
@[simp] theorem takeWord_suspended (w : Word24) (ops : List Micro) (s : State) : (takeWord w ops s).suspended = s.suspended := rfl
@[simp] theorem takeWord_wake (w : Word24) (ops : List Micro) (s : State) : (takeWord w ops s).wake = s.wake := rfl
@[simp] theorem takeWord_led (w : Word24) (ops : List Micro) (s : State) : (takeWord w ops s).led = s.led := rfl
@[simp] theorem takeWord_ledcnt (w : Word24) (ops : List Micro) (s : State) : (takeWord w ops s).ledcnt = s.ledcnt := rfl
@[simp] theorem takeWord_trace (w : Word24) (ops : List Micro) (s : State) : (takeWord w ops s).trace = s.trace := rfl
@[simp] theorem takeWord_fault (w : Word24) (ops : List Micro) (s : State) : (takeWord w ops s).fault = s.fault := rfl
@[simp] theorem takeWord_booted (w : Word24) (ops : List Micro) (s : State) : (takeWord w ops s).booted = s.booted := rfl
@[simp] theorem takeWord_watch (w : Word24) (ops : List Micro) (s : State) : (takeWord w ops s).watch = s.watch := rfl
@[simp] theorem takeWord_inputs (w : Word24) (ops : List Micro) (s : State) : (takeWord w ops s).inputs = s.inputs := rfl

/-- A word that is not for the block is taken as any other (R282). -/
@[simp] theorem takeForeign_eq (w : Word24) (s : State) : takeForeign w s = takeWord w foreignOps s := rfl

/-! ### takeRequest -/

@[simp] theorem takeRequest_params (i : Instr) (ops : List Micro) (s : State) : (takeRequest i ops s).params = s.params := rfl
@[simp] theorem takeRequest_acq (i : Instr) (ops : List Micro) (s : State) : (takeRequest i ops s).acq = s.acq := rfl
@[simp] theorem takeRequest_seq (i : Instr) (ops : List Micro) (s : State) : (takeRequest i ops s).seq = .busy (.dispatch (encode s.params i)) ops := rfl
@[simp] theorem takeRequest_cfg (i : Instr) (ops : List Micro) (s : State) : (takeRequest i ops s).cfg = s.cfg := rfl
@[simp] theorem takeRequest_vr0 (i : Instr) (ops : List Micro) (s : State) : (takeRequest i ops s).vr0 = s.vr0 := rfl
@[simp] theorem takeRequest_vr1 (i : Instr) (ops : List Micro) (s : State) : (takeRequest i ops s).vr1 = s.vr1 := rfl
@[simp] theorem takeRequest_regs (i : Instr) (ops : List Micro) (s : State) : (takeRequest i ops s).regs = s.regs := rfl
@[simp] theorem takeRequest_pm (i : Instr) (ops : List Micro) (s : State) : (takeRequest i ops s).pm = s.pm := rfl
@[simp] theorem takeRequest_pmPtr (i : Instr) (ops : List Micro) (s : State) : (takeRequest i ops s).pmPtr = s.pmPtr := rfl
@[simp] theorem takeRequest_pendingSetup (i : Instr) (ops : List Micro) (s : State) : (takeRequest i ops s).pendingSetup = none := rfl
@[simp] theorem takeRequest_pendingSuspend (i : Instr) (ops : List Micro) (s : State) : (takeRequest i ops s).pendingSuspend = s.pendingSuspend := rfl
@[simp] theorem takeRequest_wfgPhase (i : Instr) (ops : List Micro) (s : State) : (takeRequest i ops s).wfgPhase = s.wfgPhase := rfl
@[simp] theorem takeRequest_fifoBulk (i : Instr) (ops : List Micro) (s : State) : (takeRequest i ops s).fifoBulk = s.fifoBulk := rfl
@[simp] theorem takeRequest_fifoIso (i : Instr) (ops : List Micro) (s : State) : (takeRequest i ops s).fifoIso = s.fifoIso := rfl
@[simp] theorem takeRequest_ep0 (i : Instr) (ops : List Micro) (s : State) : (takeRequest i ops s).ep0 = s.ep0 := rfl
@[simp] theorem takeRequest_speed (i : Instr) (ops : List Micro) (s : State) : (takeRequest i ops s).speed = s.speed := rfl
@[simp] theorem takeRequest_suspended (i : Instr) (ops : List Micro) (s : State) : (takeRequest i ops s).suspended = s.suspended := rfl
@[simp] theorem takeRequest_wake (i : Instr) (ops : List Micro) (s : State) : (takeRequest i ops s).wake = s.wake := rfl
@[simp] theorem takeRequest_led (i : Instr) (ops : List Micro) (s : State) : (takeRequest i ops s).led = s.led := rfl
@[simp] theorem takeRequest_ledcnt (i : Instr) (ops : List Micro) (s : State) : (takeRequest i ops s).ledcnt = s.ledcnt := rfl
@[simp] theorem takeRequest_trace (i : Instr) (ops : List Micro) (s : State) : (takeRequest i ops s).trace = s.trace := rfl
@[simp] theorem takeRequest_fault (i : Instr) (ops : List Micro) (s : State) : (takeRequest i ops s).fault = s.fault := rfl
@[simp] theorem takeRequest_booted (i : Instr) (ops : List Micro) (s : State) : (takeRequest i ops s).booted = s.booted := rfl
@[simp] theorem takeRequest_watch (i : Instr) (ops : List Micro) (s : State) : (takeRequest i ops s).watch = s.watch := rfl
@[simp] theorem takeRequest_inputs (i : Instr) (ops : List Micro) (s : State) : (takeRequest i ops s).inputs = s.inputs := rfl

/-! ### taken -/

@[simp] theorem taken_params (l : List Input) (s : State) : (taken l s).params = s.params := rfl
@[simp] theorem taken_acq (l : List Input) (s : State) : (taken l s).acq = s.acq := rfl
@[simp] theorem taken_seq (l : List Input) (s : State) : (taken l s).seq = s.seq := rfl
@[simp] theorem taken_cfg (l : List Input) (s : State) : (taken l s).cfg = s.cfg := rfl
@[simp] theorem taken_vr0 (l : List Input) (s : State) : (taken l s).vr0 = s.vr0 := rfl
@[simp] theorem taken_vr1 (l : List Input) (s : State) : (taken l s).vr1 = s.vr1 := rfl
@[simp] theorem taken_regs (l : List Input) (s : State) : (taken l s).regs = s.regs := rfl
@[simp] theorem taken_pm (l : List Input) (s : State) : (taken l s).pm = s.pm := rfl
@[simp] theorem taken_pmPtr (l : List Input) (s : State) : (taken l s).pmPtr = s.pmPtr := rfl
@[simp] theorem taken_pendingSetup (l : List Input) (s : State) : (taken l s).pendingSetup = none := rfl
@[simp] theorem taken_pendingSuspend (l : List Input) (s : State) : (taken l s).pendingSuspend = s.pendingSuspend := rfl
@[simp] theorem taken_wfgPhase (l : List Input) (s : State) : (taken l s).wfgPhase = s.wfgPhase := rfl
@[simp] theorem taken_fifoBulk (l : List Input) (s : State) : (taken l s).fifoBulk = s.fifoBulk := rfl
@[simp] theorem taken_fifoIso (l : List Input) (s : State) : (taken l s).fifoIso = s.fifoIso := rfl
@[simp] theorem taken_ep0 (l : List Input) (s : State) : (taken l s).ep0 = s.ep0 := rfl
@[simp] theorem taken_speed (l : List Input) (s : State) : (taken l s).speed = s.speed := rfl
@[simp] theorem taken_suspended (l : List Input) (s : State) : (taken l s).suspended = s.suspended := rfl
@[simp] theorem taken_wake (l : List Input) (s : State) : (taken l s).wake = s.wake := rfl
@[simp] theorem taken_led (l : List Input) (s : State) : (taken l s).led = s.led := rfl
@[simp] theorem taken_ledcnt (l : List Input) (s : State) : (taken l s).ledcnt = s.ledcnt := rfl
@[simp] theorem taken_trace (l : List Input) (s : State) : (taken l s).trace = s.trace := rfl
@[simp] theorem taken_fault (l : List Input) (s : State) : (taken l s).fault = s.fault := rfl
@[simp] theorem taken_booted (l : List Input) (s : State) : (taken l s).booted = s.booted := rfl
@[simp] theorem taken_watch (l : List Input) (s : State) : (taken l s).watch = s.watch := rfl
@[simp] theorem taken_inputs (l : List Input) (s : State) : (taken l s).inputs = l := rfl

/-! ### answered -/

@[simp] theorem answered_params (w : Word24) (r : ReplyKind) (s : State) : (answered w r s).params = s.params := rfl
@[simp] theorem answered_acq (w : Word24) (r : ReplyKind) (s : State) : (answered w r s).acq = s.acq := rfl
@[simp] theorem answered_seq (w : Word24) (r : ReplyKind) (s : State) : (answered w r s).seq = s.seq := rfl
@[simp] theorem answered_cfg (w : Word24) (r : ReplyKind) (s : State) : (answered w r s).cfg = s.cfg := rfl
@[simp] theorem answered_vr0 (w : Word24) (r : ReplyKind) (s : State) : (answered w r s).vr0 = s.vr0 := rfl
@[simp] theorem answered_vr1 (w : Word24) (r : ReplyKind) (s : State) : (answered w r s).vr1 = s.vr1 := rfl
@[simp] theorem answered_regs (w : Word24) (r : ReplyKind) (s : State) : (answered w r s).regs = s.regs := rfl
@[simp] theorem answered_pm (w : Word24) (r : ReplyKind) (s : State) : (answered w r s).pm = s.pm := rfl
@[simp] theorem answered_pmPtr (w : Word24) (r : ReplyKind) (s : State) : (answered w r s).pmPtr = s.pmPtr := rfl
@[simp] theorem answered_pendingSetup (w : Word24) (r : ReplyKind) (s : State) : (answered w r s).pendingSetup = s.pendingSetup := rfl
@[simp] theorem answered_pendingSuspend (w : Word24) (r : ReplyKind) (s : State) : (answered w r s).pendingSuspend = s.pendingSuspend := rfl
@[simp] theorem answered_wfgPhase (w : Word24) (r : ReplyKind) (s : State) : (answered w r s).wfgPhase = s.wfgPhase := rfl
@[simp] theorem answered_fifoBulk (w : Word24) (r : ReplyKind) (s : State) : (answered w r s).fifoBulk = s.fifoBulk := rfl
@[simp] theorem answered_fifoIso (w : Word24) (r : ReplyKind) (s : State) : (answered w r s).fifoIso = s.fifoIso := rfl
@[simp] theorem answered_ep0 (w : Word24) (r : ReplyKind) (s : State) : (answered w r s).ep0 = none := rfl
@[simp] theorem answered_speed (w : Word24) (r : ReplyKind) (s : State) : (answered w r s).speed = s.speed := rfl
@[simp] theorem answered_suspended (w : Word24) (r : ReplyKind) (s : State) : (answered w r s).suspended = s.suspended := rfl
@[simp] theorem answered_wake (w : Word24) (r : ReplyKind) (s : State) : (answered w r s).wake = s.wake := rfl
@[simp] theorem answered_led (w : Word24) (r : ReplyKind) (s : State) : (answered w r s).led = s.led := rfl
@[simp] theorem answered_ledcnt (w : Word24) (r : ReplyKind) (s : State) : (answered w r s).ledcnt = s.ledcnt := rfl
@[simp] theorem answered_trace (w : Word24) (r : ReplyKind) (s : State) : (answered w r s).trace = s.trace ++ [.reply w r] := rfl
@[simp] theorem answered_fault (w : Word24) (r : ReplyKind) (s : State) : (answered w r s).fault = s.fault := rfl
@[simp] theorem answered_booted (w : Word24) (r : ReplyKind) (s : State) : (answered w r s).booted = s.booted := rfl
@[simp] theorem answered_watch (w : Word24) (r : ReplyKind) (s : State) : (answered w r s).watch = s.watch := rfl
@[simp] theorem answered_inputs (w : Word24) (r : ReplyKind) (s : State) : (answered w r s).inputs = s.inputs := rfl

/-! ### afterStop -/

@[simp] theorem afterStop_params (s : State) : (afterStop s).params = s.params := rfl
@[simp] theorem afterStop_acq (s : State) : (afterStop s).acq = .idle := rfl
@[simp] theorem afterStop_seq (s : State) : (afterStop s).seq = s.seq := rfl
@[simp] theorem afterStop_cfg (s : State) : (afterStop s).cfg = s.cfg := rfl
@[simp] theorem afterStop_vr0 (s : State) : (afterStop s).vr0 = s.vr0 := rfl
@[simp] theorem afterStop_vr1 (s : State) : (afterStop s).vr1 = s.vr1 := rfl
@[simp] theorem afterStop_regs (s : State) : (afterStop s).regs = s.regs := rfl
@[simp] theorem afterStop_pm (s : State) : (afterStop s).pm = s.pm := rfl
@[simp] theorem afterStop_pmPtr (s : State) : (afterStop s).pmPtr = s.pmPtr := rfl
@[simp] theorem afterStop_pendingSetup (s : State) : (afterStop s).pendingSetup = s.pendingSetup := rfl
@[simp] theorem afterStop_pendingSuspend (s : State) : (afterStop s).pendingSuspend = s.pendingSuspend := rfl
@[simp] theorem afterStop_wfgPhase (s : State) : (afterStop s).wfgPhase = abortedPhase s.wfgPhase := rfl
@[simp] theorem afterStop_fifoBulk (s : State) : (afterStop s).fifoBulk = if s.cfg.alt = .bulk then .empty else s.fifoBulk := rfl
@[simp] theorem afterStop_fifoIso (s : State) : (afterStop s).fifoIso = if s.cfg.alt = .iso then .empty else s.fifoIso := rfl
@[simp] theorem afterStop_ep0 (s : State) : (afterStop s).ep0 = s.ep0 := rfl
@[simp] theorem afterStop_speed (s : State) : (afterStop s).speed = s.speed := rfl
@[simp] theorem afterStop_suspended (s : State) : (afterStop s).suspended = s.suspended := rfl
@[simp] theorem afterStop_wake (s : State) : (afterStop s).wake = s.wake := rfl
@[simp] theorem afterStop_led (s : State) : (afterStop s).led = s.led := rfl
@[simp] theorem afterStop_ledcnt (s : State) : (afterStop s).ledcnt = s.ledcnt := rfl
@[simp] theorem afterStop_trace (s : State) : (afterStop s).trace = s.trace ++ stopEvents s.params s.cfg.alt := rfl
@[simp] theorem afterStop_fault (s : State) : (afterStop s).fault = s.fault := rfl
@[simp] theorem afterStop_booted (s : State) : (afterStop s).booted = s.booted := rfl
@[simp] theorem afterStop_watch (s : State) : (afterStop s).watch = s.watch := rfl
@[simp] theorem afterStop_inputs (s : State) : (afterStop s).inputs = s.inputs := rfl

/-! ### Updates that choose a field -/

@[simp] theorem setVr_ch0 (c : VoltageCode) (s : State) : setVr .ch0 c s = { s with vr0 := some c } := rfl
@[simp] theorem setVr_ch1 (c : VoltageCode) (s : State) : setVr .ch1 c s = { s with vr1 := some c } := rfl
@[simp] theorem setFifo_bulk (x : FifoState) (s : State) : setFifo .bulk x s = { s with fifoBulk := x } := rfl
@[simp] theorem setFifo_iso (x : FifoState) (s : State) : setFifo .iso x s = { s with fifoIso := x } := rfl

end Sys2Proof.Machine
end

