-- ==== Sys2Proof/Laws/Ops.lean ====
section
/-! SUPPORT. One lemma per shared operation, saying once what it can do. -/

namespace Sys2Proof.Machine

/-- A write through the pointer: within `PM` it stores, counts and records, outside it faults (R52, R80). -/
theorem pmWrite_cases (v : Byte) (s : State) :
    (s.pmPtr < s.params.progMemBytes ∧ pmWrite v s =
      { s with pm := Memory.write s.pmPtr v s.pm, pmPtr := s.pmPtr + 1, trace := s.trace ++ [.pm s.pmPtr v] }) ∨
    (s.params.progMemBytes ≤ s.pmPtr ∧ pmWrite v s = raise .pmOutOfRange s) := by
  by_cases h : s.pmPtr < s.params.progMemBytes
  · exact .inl ⟨h, by simp [pmWrite, h]⟩
  · exact .inr ⟨by omega, by simp [pmWrite, h]⟩

/-- A plain micro-operation changes neither the parameters, nor the inputs, nor the pending request, and it raises nothing
but the program-memory fault. -/
theorem actEffect_keeps (a : Act) (s : State) :
    (actEffect a s).params = s.params ∧ (actEffect a s).inputs = s.inputs ∧
    (actEffect a s).pendingSetup = s.pendingSetup ∧ (actEffect a s).pendingSuspend = s.pendingSuspend ∧
    (actEffect a s).ep0 = s.ep0 ∧ (actEffect a s).speed = s.speed ∧
    ((actEffect a s).fault = s.fault ∨ (actEffect a s).fault = some .pmOutOfRange) := by
  cases a with
  | pmWrite v =>
    rcases pmWrite_cases v s with ⟨_, h⟩ | ⟨_, h⟩ <;> simp [actEffect, h]
  | setVr ch c => cases ch <;> simp [actEffect]
  | wr r v => simp [actEffect]
  | resetWrite k => simp [actEffect]
  | sync => simp [actEffect]
  | pmRewind => simp [actEffect]
  | setAcq a => simp [actEffect]
  | setLed l n => simp [actEffect]
  | setNch n => simp [actEffect]
  | setRateId id => simp [actEffect]
  | setRateKsps k => simp [actEffect]
  | setAlt a => simp [actEffect]
  | setDefaults => simp [actEffect]
  | writeIsoPkts => simp [actEffect]
  | emptyFifos => simp [actEffect]
  | emitAlt => simp [actEffect]
  | suspend => simp [actEffect]
  | resume => simp [actEffect]
  | finishInit => simp [actEffect]

/-- Where the sequencer stands after a micro-operation (R33). -/
theorem seqAfter_eq (op : Op) (rest : List Micro) :
    seqAfter op rest = if rest = [] then .ready else .busy op rest := by
  cases rest <;> rfl

@[simp] theorem seqAfter_nil (op : Op) : seqAfter op [] = .ready := rfl

@[simp] theorem seqAfter_cons (op : Op) (m : Micro) (rest : List Micro) :
    seqAfter op (m :: rest) = .busy op (m :: rest) := rfl

/-- A plain micro-operation keeps program memory canonical and within its size. -/
theorem actEffect_pmOk (a : Act) {s : State} (h : PmOk s) : PmOk (actEffect a s) := by
  cases a with
  | pmWrite v =>
    rcases pmWrite_cases v s with ⟨hlt, hs⟩ | ⟨_, hs⟩
    · rw [actEffect, hs]
      exact ⟨Memory.wf_write h.1 _ _, Memory.within_write h.2 hlt _⟩
    · rw [actEffect, hs]
      exact h
  | setVr ch c => cases ch <;> exact h
  | wr r v => exact h
  | resetWrite k => exact h
  | sync => exact h
  | pmRewind => exact h
  | setAcq a => exact h
  | setLed l n => exact h
  | setNch n => exact h
  | setRateId id => exact h
  | setRateKsps k => exact h
  | setAlt a => exact h
  | setDefaults => exact h
  | writeIsoPkts => exact h
  | emptyFifos => exact h
  | emitAlt => exact h
  | suspend => exact h
  | resume => exact h
  | finishInit => exact h

/-! ### The reset sequence as the FIFO hardware sees it -/

@[simp] theorem takeDue_nil (k : ResetStep) : takeDue k [] = .broken := rfl

@[simp] theorem takeDue_same (k : ResetStep) (l : List ResetStep) : takeDue k (k :: l) = .due l := by simp [takeDue]

theorem takeDue_other {k k' : ResetStep} (h : k ≠ k') (l : List ResetStep) : takeDue k (k' :: l) = .broken := by
  simp [takeDue, h]

@[simp] theorem progressAfter_outside (k : ResetStep) : progressAfter k .outside = takeDue k resetSteps := rfl

@[simp] theorem progressAfter_due (k : ResetStep) (l : List ResetStep) : progressAfter k (.due l) = takeDue k l := rfl

@[simp] theorem progressAfter_broken (k : ResetStep) : progressAfter k .broken = .broken := rfl

/-- The next write of the mandated sequence, with its delay and, if it is the first pulse, at a quiescent generator, opens
no window (R196). -/
theorem watchReset_mandated {p : WfgPhase} {k : ResetStep} {l : List ResetStep} {w : FifoWatch}
    (hd : w.delayed = true) (ho : progressAfter k w.progress = .due l) (hp : k = .firstPulse → p = .quiescent) :
    watchReset p k w = { delayed := false, progress := .due l, hazard := false } := by
  have : lockupAdmitted p k w = false := by
    by_cases hk : k = .firstPulse
    · simp [lockupAdmitted, hd, ho, hp hk]
    · simp [lockupAdmitted, hd, ho, hk]
  simp [watchReset, this, ho]

/-! ### Inputs -/

/-- An input whose turn has not come: nothing is due while the thread has a step. -/
theorem dueInput_of_quiet {l : List Input} (h : quiet l = true) : dueInput true l = none := by
  cases l with
  | nil => rfl
  | cons i l =>
    obtain ⟨d, e⟩ := i
    simp only [quiet, decide_eq_true_eq] at h
    subst h
    rfl

/-- Quiet inputs are not counted down. -/
theorem countOp_of_quiet {l : List Input} (h : quiet l = true) : countOp l = l := by
  cases l with
  | nil => rfl
  | cons i l =>
    obtain ⟨d, e⟩ := i
    simp only [quiet, decide_eq_true_eq] at h
    subst h
    rfl

theorem counted_of_quiet {s : State} (h : quiet s.inputs = true) : counted s = s := by
  simp [counted, countOp_of_quiet h]

/-- The counted inputs are as many as before. -/
@[simp] theorem countOp_length (l : List Input) : (countOp l).length = l.length := by
  match l with
  | [] => rfl
  | ⟨.afterOps 0, _⟩ :: _ => rfl
  | ⟨.afterOps (_ + 1), _⟩ :: _ => rfl
  | ⟨.whenHeld, _⟩ :: _ => rfl

/-- An input that is due is the first of the list. -/
theorem dueInput_cases {b : Bool} {l : List Input} {e : EnvEvent} {l' : List Input} (h : dueInput b l = some (e, l')) :
    ∃ d, l = { due := d, ev := e } :: l' := by
  match l, h with
  | ⟨.afterOps 0, e'⟩ :: l, h => simp only [dueInput, Option.some.injEq, Prod.mk.injEq] at h; exact ⟨_, by rw [h.1, h.2]⟩
  | ⟨.afterOps (n + 1), e'⟩ :: l, h =>
    cases b <;> simp only [dueInput, if_true, Bool.false_eq_true, if_false, reduceCtorEq, Option.some.injEq,
      Prod.mk.injEq] at h
    exact ⟨_, by rw [h.1, h.2]⟩
  | ⟨.whenHeld, e'⟩ :: l, h =>
    cases b <;> simp only [dueInput, if_true, Bool.false_eq_true, if_false, reduceCtorEq, Option.some.injEq,
      Prod.mk.injEq] at h
    exact ⟨_, by rw [h.1, h.2]⟩

/-- What one step of another agent can be (R60): nothing, or the one update its rule gives. -/
theorem envStep_cases (e : EnvEvent) (s : State) :
    envStep e s = s ∨
    (∃ w, e = .setup w ∧ s.pendingSetup = none ∧ s.seq = .ready ∧ envStep e s = { s with pendingSetup := some w }) ∨
    (∃ d, e = .dataStage d ∧ awaitsPayload s = true ∧ envStep e s = { s with ep0 := some d }) ∨
    (e = .timerTick ∧ s.suspended = false ∧ 0 < s.ledcnt ∧ envStep e s =
      { s with ledcnt := s.ledcnt - 1, led := if s.ledcnt - 1 = 0 then .off else s.led }) ∨
    (e = .wfgQuiesce ∧ s.wfgPhase = .aborting ∧ envStep e s = { s with wfgPhase := .quiescent }) ∨
    (e = .wfgFinish ∧ s.wfgPhase = .executing ∧ envStep e s = { s with wfgPhase := .quiescent }) ∨
    (∃ f, e = .fifoFill f ∧ s.wfgPhase = .executing ∧ f = s.cfg.alt ∧ envStep e s = setFifo f .data s) ∨
    (∃ f, e = .fifoDrain f ∧ envStep e s = setFifo f .empty s) ∨
    (∃ sp, e = .setSpeed sp ∧ envStep e s = { s with speed := sp }) ∨
    (e = .suspend ∧ envStep e s = { s with pendingSuspend := true }) ∨
    (e = .wake ∧ envStep e s = { s with wake := true }) ∨
    (e = .lockup ∧ s.watch.hazard = true ∧ envStep e s = raise .fifoLockup s) := by
  cases e <;> simp only [envStep] <;> (try split) <;> simp_all

end Sys2Proof.Machine
end

