-- ==== Sys2Proof/Laws/PerInstr.lean ====
section
/-! SUPPORT. Statements made per command, one lemma for each constructor. -/

namespace Sys2Proof.Laws.Format

/-- The format of the command's word (R102, R108): the request type byte of its row of the opcode map, and, for a standard
request, its request code. -/
def Statement : Instr → Prop
  | .volt0 arg => ∀ P : Params, wordKind (encode P (.volt0 arg)) = 0x40
  | .volt1 arg => ∀ P : Params, wordKind (encode P (.volt1 arg)) = 0x40
  | .rate arg => ∀ P : Params, wordKind (encode P (.rate arg)) = 0x40
  | .acq arg => ∀ P : Params, wordKind (encode P (.acq arg)) = 0x40
  | .nch arg => ∀ P : Params, wordKind (encode P (.nch arg)) = 0x40
  | .vendorUnknown req arg => ∀ P : Params, wordKind (encode P (.vendorUnknown req arg)) = 0x40
  | .vendorIn req arg => ∀ P : Params, wordKind (encode P (.vendorIn req arg)) = 0xC0
  | .setAlt a => ∀ P : Params, wordKind (encode P (.setAlt a)) = 0x01 ∧ wordReq (encode P (.setAlt a)) = 0x0B
  | .getAlt arg => ∀ P : Params, wordKind (encode P (.getAlt arg)) = 0x81 ∧ wordReq (encode P (.getAlt arg)) = 0x0A

theorem volt0 (arg : Byte) : Statement (.volt0 arg) := fun _ => wordKind_mkWord _ _ _

theorem volt1 (arg : Byte) : Statement (.volt1 arg) := fun _ => wordKind_mkWord _ _ _

theorem rate (arg : Byte) : Statement (.rate arg) := fun _ => wordKind_mkWord _ _ _

theorem acq (arg : Byte) : Statement (.acq arg) := fun _ => wordKind_mkWord _ _ _

theorem nch (arg : Byte) : Statement (.nch arg) := fun _ => wordKind_mkWord _ _ _

theorem vendorUnknown (req arg : Byte) : Statement (.vendorUnknown req arg) := fun _ => wordKind_mkWord _ _ _

theorem vendorIn (req arg : Byte) : Statement (.vendorIn req arg) := fun _ => wordKind_mkWord _ _ _

theorem setAlt (a : Byte) : Statement (.setAlt a) := fun _ => ⟨wordKind_mkWord _ _ _, wordReq_mkWord _ _ _⟩

theorem getAlt (arg : Byte) : Statement (.getAlt arg) := fun _ => ⟨wordKind_mkWord _ _ _, wordReq_mkWord _ _ _⟩

end Sys2Proof.Laws.Format
end

