-- ==== Sys2Proof/Laws/Sequencer.lean ====
section
/-! SUPPORT. What a turn and a run of turns can do: running an operation symbolically, one micro-operation at a time, and
carrying an invariant along every interleaving. -/

namespace Sys2Proof.Machine

/-! ### One turn -/

/-- A turn, inverted: the block is not faulted, and either an input is due and its agent steps, or the thread steps. -/
theorem turn_cases {f : State → State} {s s' : State} (h : turn f s = some s') :
    s.fault = none ∧
    ((∃ d e l, s.inputs = { due := d, ev := e } :: l ∧ s' = envStep e { s with inputs := l }) ∨
     (canMove s = true ∧ s' = f (counted s))) := by
  unfold turn at h
  split at h
  · cases h
  · next hf =>
    refine ⟨hf, ?_⟩
    split at h
    · next e l hd =>
      obtain ⟨d, hd⟩ := dueInput_cases hd
      exact .inl ⟨d, e, l, hd, (Option.some.inj h).symm⟩
    · split at h
      · next hc => exact .inr ⟨hc, (Option.some.inj h).symm⟩
      · cases h

/-- With nothing due, the turn is the thread's. -/
theorem turn_thread {f : State → State} {s : State} (hf : s.fault = none) (hq : quiet s.inputs = true)
    (hc : canMove s = true) : turn f s = some (f s) := by
  simp [turn, hf, hc, dueInput_of_quiet hq, counted_of_quiet hq]

/-- An input whose count has run out comes first, whatever the thread can do. -/
theorem turn_due {f : State → State} {s : State} (hf : s.fault = none) {e : EnvEvent} {l : List Input}
    (hl : s.inputs = { due := .afterOps 0, ev := e } :: l) : turn f s = some (envStep e { s with inputs := l }) := by
  simp [turn, hf, hl, dueInput]

/-- A thread with no step lets the next input come. -/
theorem turn_held {f : State → State} {s : State} (hf : s.fault = none) (hc : canMove s = false) {e : EnvEvent}
    {l : List Input} (hl : s.inputs = { due := .whenHeld, ev := e } :: l) :
    turn f s = some (envStep e { s with inputs := l }) := by
  simp [turn, hf, hc, hl, dueInput]

/-- A thread with no step and no input to come: nothing moves (R279). -/
theorem turn_stuck {f : State → State} {s : State} (hc : canMove s = false) (hl : s.inputs = []) : turn f s = none := by
  unfold turn
  split <;> simp [hc, hl, dueInput]

/-! ### A run -/

@[simp] theorem run_ready {n : Nat} {s : State} (h : s.seq = .ready) : run n s = s := by
  cases n <;> simp [run, h]

theorem run_faulted {n : Nat} {s : State} {f : StickyFault} (h : s.fault = some f) : run n s = s := by
  cases n with
  | zero => rfl
  | succ n => simp only [run]; split <;> simp [turn, h]

theorem run_stuck {n : Nat} {s : State} (hc : canMove s = false) (hl : s.inputs = []) : run n s = s := by
  cases n with
  | zero => rfl
  | succ n => simp only [run]; split <;> simp [turn_stuck hc hl]

/-- One micro-operation of a run with nothing due. -/
theorem run_micro {n : Nat} {s : State} {op : Op} {m : Micro} {rest : List Micro} (hf : s.fault = none)
    (hs : s.seq = .busy op (m :: rest)) (hq : quiet s.inputs = true) (hc : canMove s = true) :
    run (n + 1) s = run n (microStep op m rest s) := by
  simp [run, hs, turn_thread hf hq hc, sequencerStep]

/-- A plain micro-operation of a run. -/
theorem run_act {n : Nat} {s : State} {op : Op} {a : Act} {rest : List Micro} (hf : s.fault = none)
    (hs : s.seq = .busy op (.act a :: rest)) (hq : quiet s.inputs = true) :
    run (n + 1) s = run n { actEffect a (closeHazard s) with seq := seqAfter op rest } :=
  run_micro hf hs hq (by simp [canMove, hs])

/-- A held run lets the next input come. -/
theorem run_held {n : Nat} {s : State} {op : Op} {rest : List Micro} (hf : s.fault = none) (hs : s.seq = .busy op rest)
    (hc : canMove s = false) {e : EnvEvent} {l : List Input} (hl : s.inputs = { due := .whenHeld, ev := e } :: l) :
    run (n + 1) s = run n (envStep e { s with inputs := l }) := by
  simp [run, hs, turn_held hf hc hl]

/-- A run lets an input come whose count has run out. -/
theorem run_due {n : Nat} {s : State} {op : Op} {rest : List Micro} (hf : s.fault = none) (hs : s.seq = .busy op rest)
    {e : EnvEvent} {l : List Input} (hl : s.inputs = { due := .afterOps 0, ev := e } :: l) :
    run (n + 1) s = run n (envStep e { s with inputs := l }) := by
  simp [run, hs, turn_due hf hl]

/-- The plain micro-operations of a list, one after another. -/
def actsEffect : List Act → State → State
  | [], s => s
  | a :: as, s => actsEffect as (actEffect a (closeHazard s))

/-- A fault set along the way is still set at the end. -/
theorem actsEffect_fault (as : List Act) {s : State} (h : (actsEffect as s).fault = none) : s.fault = none := by
  induction as generalizing s with
  | nil => exact h
  | cons a as ih =>
    have := ih h
    rcases (actEffect_keeps a (closeHazard s)).2.2.2.2.2.2 with h1 | h1
    · rw [this] at h1; exact h1.symm
    · rw [this] at h1; cases h1

/-- The state with the sequencer at a given position. -/
def atSeq (q : Seq) (s : State) : State := { s with seq := q }

@[simp] theorem atSeq_seq (q : Seq) (s : State) : (atSeq q s).seq = q := rfl
@[simp] theorem atSeq_fault (q : Seq) (s : State) : (atSeq q s).fault = s.fault := rfl
@[simp] theorem atSeq_inputs (q : Seq) (s : State) : (atSeq q s).inputs = s.inputs := rfl

/-- The sequencer's position is no part of what a plain micro-operation reads. -/
theorem actEffect_atSeq (a : Act) (s : State) (q q' : Seq) :
    atSeq q' (actEffect a (closeHazard (atSeq q s))) = atSeq q' (actEffect a (closeHazard s)) := by
  cases a with
  | pmWrite v =>
    by_cases h : s.pmPtr < s.params.progMemBytes <;> simp [actEffect, pmWrite, raise, atSeq, closeHazard, h]
  | setVr ch c => cases ch <;> rfl
  | _ => rfl

/-- Only the position an operation ends in depends on the one it started in. -/
theorem actsEffect_atSeq (as : List Act) (s : State) (q q' : Seq) :
    atSeq q' (actsEffect as (atSeq q s)) = atSeq q' (actsEffect as s) := by
  induction as generalizing s q with
  | nil => rfl
  | cons a as ih =>
    simp only [actsEffect]
    rw [← ih (actEffect a (closeHazard (atSeq q s))) .ready, ← ih (actEffect a (closeHazard s)) .ready,
      actEffect_atSeq a s q .ready]

theorem actsEffect_atSeq_fault (as : List Act) (s : State) (q : Seq) :
    (actsEffect as (atSeq q s)).fault = (actsEffect as s).fault := by
  have h := congrArg State.fault (actsEffect_atSeq as s q .ready)
  simpa using h

/-- A stretch of plain micro-operations that raises nothing, in one go. -/
theorem run_acts {n : Nat} (as : List Act) {s : State} {op : Op} {rest : List Micro}
    (hf : (actsEffect as s).fault = none) (hs : s.seq = .busy op (as.map Micro.act ++ rest)) (hr : rest ≠ [])
    (hq : quiet s.inputs = true) :
    run (n + as.length) s = run n (atSeq (.busy op rest) (actsEffect as s)) := by
  induction as generalizing s with
  | nil =>
    cases s
    simp only [List.map_nil, List.nil_append] at hs
    simp [actsEffect, atSeq, ← hs]
  | cons a as ih =>
    have hne : as.map Micro.act ++ rest ≠ [] := by simp [hr]
    obtain ⟨m, l, hml⟩ := List.exists_cons_of_ne_nil hne
    rw [List.length_cons, ← Nat.add_assoc, run_act (actsEffect_fault (a :: as) hf) hs hq]
    change run (n + as.length) (atSeq (seqAfter op (as.map Micro.act ++ rest)) (actEffect a (closeHazard s))) = _
    rw [ih]
    · rw [actsEffect_atSeq]; rfl
    · rw [actsEffect_atSeq_fault]; exact hf
    · simp only [hml, seqAfter, atSeq_seq]
    · simpa [(actEffect_keeps a (closeHazard s)).2.1] using hq

/-- An invariant that every turn inside an operation keeps holds at the end of a run, whatever the inputs. -/
theorem run_keeps {I : State → Prop} (h : ∀ s s', I s → turn sequencerStep s = some s' → I s') (n : Nat) {s : State}
    (hs : I s) : I (run n s) := by
  induction n generalizing s with
  | zero => exact hs
  | succ n ih =>
    simp only [run]
    split
    · exact hs
    · split
      · exact hs
      · next s' ht => exact ih (h s s' hs ht)

/-- What holds of the outcome of a command holds because the block was at rest and the sequence was carried on. -/
theorem runRequest_next {i : Instr} {ops : List Micro} {s t : State} (h : runRequest i ops s = .next t) :
    s.fault = none ∧ s.seq = .ready ∧ t = carryOn (takeRequest i ops (counted s)) := by
  unfold runRequest at h
  split at h
  · next f _ => cases f <;> cases h
  · next hf =>
    split at h
    · cases h
    · next hs => exact ⟨hf, hs, (Host.Outcome.next.inj h).symm⟩

/-- A command a block at rest takes. -/
theorem runRequest_of_canTake {i : Instr} {ops : List Micro} {s : State} (h : CanTake s) :
    runRequest i ops s = .next (carryOn (takeRequest i ops (counted s))) := by
  simp [runRequest, h.1, h.2]

/-- Every command's meaning is its sequence, taken and carried on. -/
theorem exec_eq (i : Instr) (s : State) : exec i s = runRequest i (dispatchOps i s) s := by
  cases i <;> rfl

/-! ### How long an operation can be -/

/-- An upper bound of the turns of the thread a micro-operation can take, what it expands to included. -/
def microCost : Micro → Nat
  | .act _ => 1
  | .wait _ => 1
  | .readPayload _ => 150
  | .sampleSpeed _ => 20
  | .reply _ => 1
  | .raise _ => 1

def opsCost (l : List Micro) : Nat := (l.map microCost).sum

def seqCost : Seq → Nat
  | .ready => 0
  | .busy _ rest => opsCost rest + 1

@[simp] theorem opsCost_nil : opsCost [] = 0 := rfl

@[simp] theorem opsCost_cons (m : Micro) (l : List Micro) : opsCost (m :: l) = microCost m + opsCost l := by
  simp [opsCost]

@[simp] theorem opsCost_append (l l' : List Micro) : opsCost (l ++ l') = opsCost l + opsCost l' := by
  simp [opsCost]

@[simp] theorem opsCost_wrSync (r : Reg) (v : Byte) : opsCost (wrSync r v) = 2 := rfl

@[simp] theorem opsCost_resetSync (k : ResetStep) : opsCost (resetSync k) = 2 := rfl

theorem seqCost_seqAfter (op : Op) (l : List Micro) : seqCost (seqAfter op l) ≤ opsCost l + 1 := by
  cases l <;> simp [seqAfter, seqCost]

theorem opsCost_recomputeIso (a : Alt) : opsCost (recomputeIsoOps a) ≤ 2 := by
  cases a <;> decide

theorem opsCost_pmWrites (l : List Byte) : opsCost (l.map (fun v => .act (.pmWrite v))) = l.length := by
  induction l with
  | nil => rfl
  | cons v l ih => simp [microCost, ih]; omega

theorem opsCost_loadProfile (P : Params) (a : Alt) (p : Profile) : opsCost (loadProfileOps P a p) ≤ 140 := by
  have := opsCost_recomputeIso a
  simp only [loadProfileOps, opsCost_append, opsCost_wrSync, opsCost_pmWrites, programImage_length, opsCost_cons,
    opsCost_nil, microCost]
  omega

theorem opsCost_start (P : Params) (c : AcqConfig) : opsCost (startOps P c) ≤ 40 := by
  cases h : P.idleGateWait <;> simp [startOps, resetFifosOps, h, microCost]

theorem opsCost_stop (P : Params) (a : Alt) : opsCost (stopOps P a) = 5 := by
  simp [stopOps, microCost]

theorem opsCost_payload (k : PayloadUse) (b : Byte) (s : State) : opsCost (payloadOps k b s) ≤ 149 := by
  cases k with
  | voltage ch =>
    simp only [payloadOps, setVoltageOps]
    split <;> simp [microCost]
  | rate =>
    simp only [payloadOps, setSampleRateOps]
    split
    · simp
    · next p _ => have := opsCost_loadProfile s.params s.cfg.alt p; omega
  | channelCount =>
    simp only [payloadOps, setChannelCountOps]
    split
    · simp
    · have := opsCost_recomputeIso s.cfg.alt
      simp [channelCountOps, microCost]; omega
  | startStop =>
    have h1 := opsCost_start s.params s.cfg
    have h2 := opsCost_stop s.params s.cfg.alt
    simp only [payloadOps, startStopOps, startCommandOps]
    split
    · split
      · simp [microCost]
      · omega
    · omega

theorem opsCost_endpoint (P : Params) (sp : Speed) (a : Alt) : opsCost (endpointOps P sp a) ≤ 19 := by
  have := opsCost_recomputeIso .iso
  cases a <;> simp [endpointOps]; omega

theorem opsCost_prologue (s : State) : opsCost (prologueOps s) ≤ 6 := by
  have := opsCost_stop s.params s.cfg.alt
  simp only [prologueOps, opsCost_append]
  split <;> simp [microCost] <;> omega

/-- No command's sequence takes more than 165 turns of the thread. -/
theorem opsCost_dispatch (i : Instr) (s : State) : opsCost (dispatchOps i s) ≤ 165 := by
  have h := opsCost_prologue s
  cases i with
  | setAlt a =>
    simp only [dispatchOps, setAltOps]
    split <;> simp [selectInterfaceOps, microCost]; omega
  | vendorUnknown r a => simp [dispatchOps, vendorUnknownOps, microCost]
  | vendorIn r a => simp [dispatchOps, vendorInOps, microCost]
  | getAlt a => simp [dispatchOps, getAltOps, microCost]
  | acq a => simp [dispatchOps, acqOps, microCost]
  | volt0 a => simp [dispatchOps, volt0Ops, configCommandOps, microCost]; omega
  | volt1 a => simp [dispatchOps, volt1Ops, configCommandOps, microCost]; omega
  | rate a => simp [dispatchOps, rateOps, configCommandOps, microCost]; omega
  | nch a => simp [dispatchOps, nchOps, configCommandOps, microCost]; omega

/-- The sequence of a word that is not for the block takes one. -/
@[simp] theorem opsCost_foreign : opsCost foreignOps = 1 := rfl

/-- Initialization takes no more than 180. -/
theorem opsCost_initialize (P : Params) (r : Option Profile) : opsCost (initializeOps P r) ≤ 180 := by
  cases r with
  | none => simp [initializeOps, channelCountOps, selectInterfaceOps, recomputeIsoOps, microCost]
  | some p =>
    have := opsCost_loadProfile P .bulk p
    simp [initializeOps, channelCountOps, selectInterfaceOps, recomputeIsoOps, microCost]; omega

/-- What is left to do: the operation in progress, and the inputs. -/
def workLeft (s : State) : Nat := seqCost s.seq + s.inputs.length

theorem envStep_seqCost (e : EnvEvent) (s : State) :
    seqCost (envStep e s).seq ≤ seqCost s.seq ∧ (envStep e s).inputs = s.inputs := by
  rcases envStep_cases e s with h | ⟨w, _, _, _, h⟩ | ⟨d, _, _, h⟩ | ⟨_, _, _, h⟩ | ⟨_, _, h⟩ | ⟨_, _, h⟩ | ⟨f, _, _, _, h⟩ |
    ⟨f, _, h⟩ | ⟨sp, _, h⟩ | ⟨_, h⟩ | ⟨_, h⟩ | ⟨_, _, h⟩ <;> rw [h]
  all_goals first
    | exact ⟨Nat.le_refl _, rfl⟩
    | (cases f <;> exact ⟨Nat.le_refl _, rfl⟩)
    | exact ⟨Nat.zero_le _, rfl⟩

/-- A micro-operation the thread can make costs at least one turn. -/
theorem microStep_cost {op : Op} {m : Micro} {rest : List Micro} {s : State} (hs : s.seq = .busy op (m :: rest))
    (hc : canMove s = true) :
    seqCost (microStep op m rest s).seq < opsCost (m :: rest) + 1 ∧ (microStep op m rest s).inputs = s.inputs := by
  cases m with
  | act a =>
    have h1 := seqCost_seqAfter op rest
    refine ⟨?_, ?_⟩
    · simp only [microStep, opsCost_cons, microCost]; omega
    · simpa [microStep] using (actEffect_keeps a (closeHazard s)).2.1
  | wait c =>
    have h1 := seqCost_seqAfter op rest
    have hw : waitHolds c s = true := by simpa [canMove, hs] using hc
    simp only [microStep, hw, if_true, opsCost_cons, microCost]
    exact ⟨by omega, rfl⟩
  | readPayload k =>
    have he : s.ep0.isSome = true := by simpa [canMove, hs] using hc
    obtain ⟨d, hd⟩ := Option.isSome_iff_exists.mp he
    have h1 := seqCost_seqAfter (opWithArg op d.first) (payloadOps k d.first s ++ rest)
    have h2 := opsCost_payload k d.first s
    simp only [microStep, hd, opsCost_cons, microCost]
    simp only [opsCost_append] at h1
    exact ⟨by omega, rfl⟩
  | sampleSpeed a =>
    have h1 := seqCost_seqAfter op (endpointOps s.params s.speed a ++ rest)
    have h2 := opsCost_endpoint s.params s.speed a
    simp only [microStep, opsCost_cons, microCost]
    simp only [opsCost_append] at h1
    exact ⟨by omega, rfl⟩
  | reply r => cases op <;> simp [microStep, reply, seqCost]
  | raise f => simp [microStep, seqCost]

/-- Counting a micro-operation is no part of what the thread can do. -/
@[simp] theorem canMove_counted (s : State) : canMove (counted s) = canMove s := rfl

/-- Every turn inside an operation leaves less to do. -/
theorem turn_workLeft {s s' : State} {op : Op} {rest : List Micro} (hb : s.seq = .busy op rest)
    (h : turn sequencerStep s = some s') : workLeft s' < workLeft s := by
  obtain ⟨_, ⟨d, e, l, hl, rfl⟩ | ⟨hc, rfl⟩⟩ := turn_cases h
  · have := envStep_seqCost e { s with inputs := l }
    simp only [workLeft, this.2, hl, List.length_cons]
    have := this.1
    simp only at this
    omega
  · have hs : (counted s).seq = s.seq := rfl
    simp only [sequencerStep, hs, hb]
    cases rest with
    | nil => simp [workLeft, hb, seqCost]
    | cons m rest =>
      have hb' : (counted s).seq = .busy op (m :: rest) := hb
      have := microStep_cost hb' ((canMove_counted s).trans hc)
      have hw : workLeft s = opsCost (m :: rest) + 1 + s.inputs.length := by rw [workLeft, hb]; rfl
      rw [hw]
      simp only [workLeft, this.2, counted_inputs, countOp_length]
      omega

/-- A run with enough turns ends with the thread `Ready` or with nothing that can move. -/
theorem run_ends (n : Nat) {s : State} (h : workLeft s ≤ n) :
    (run n s).seq = .ready ∨ turn sequencerStep (run n s) = none := by
  induction n generalizing s with
  | zero =>
    left
    cases hs : s.seq with
    | ready => simpa [run] using hs
    | busy op rest => simp [workLeft, hs, seqCost] at h
  | succ n ih =>
    simp only [run]
    split
    · next hs => exact .inl hs
    · next op rest hb =>
      split
      · next ht => exact .inr ht
      · next s' ht => exact ih (by have := turn_workLeft hb ht; omega)

end Sys2Proof.Machine
end

