-- ==== Sys2Proof/Laws/Step.lean ====
section
/-! SUPPORT. What a step of the machine can be, said once. -/

namespace Sys2Proof.Machine

/-- The word whose request the main loop takes is the one that waits (R282). -/
theorem mainLoopTakes_cases (s : State) :
    (s.booted = false ∧ mainLoopTakes s = .initialization) ∨
    (s.booted = true ∧ ∃ w i, s.pendingSetup = some w ∧ decode s.params w = .instr i ∧ mainLoopTakes s = .request i) ∨
    (s.booted = true ∧ ∃ w, s.pendingSetup = some w ∧ decode s.params w = .notForBlock ∧
      mainLoopTakes s = .notForBlock w) ∨
    (s.booted = true ∧ s.pendingSetup = none ∧ s.pendingSuspend = true ∧ mainLoopTakes s = .suspend) ∨
    (s.booted = true ∧ s.pendingSetup = none ∧ s.pendingSuspend = false ∧ mainLoopTakes s = .nothing) := by
  unfold mainLoopTakes
  cases hb : s.booted with
  | false => simp
  | true =>
    cases hp : s.pendingSetup with
    | none => cases hs : s.pendingSuspend <;> simp
    | some w => cases hd : decode s.params w <;> simp [hd]

/-- A step, inverted: the block is not faulted, and it carries on an operation, or lets an input come, or does nothing, or
takes what the main loop takes. -/
theorem step_next {s t : State} (h : step s = .next t) :
    s.fault = none ∧
    ((∃ op rest, s.seq = .busy op rest ∧ t = carryOn s) ∨
     (s.seq = .ready ∧
      ((∃ d e l, s.inputs = { due := d, ev := e } :: l ∧ t = envStep e { s with inputs := l }) ∨
       t = s ∨
       (s.booted = false ∧ t = carryOn (beginInitialize (counted s))) ∨
       (s.booted = true ∧ ∃ w i, s.pendingSetup = some w ∧ decode s.params w = .instr i ∧
         t = carryOn (takeRequest i (dispatchOps i s) (counted s))) ∨
       (s.booted = true ∧ ∃ w, s.pendingSetup = some w ∧ decode s.params w = .notForBlock ∧
         t = carryOn (takeForeign w (counted s))) ∨
       (s.booted = true ∧ s.pendingSetup = none ∧ s.pendingSuspend = true ∧
         t = carryOn (beginSuspend (counted s)))))) := by
  unfold step nextMove at h
  cases hf : s.fault with
  | some f => rw [hf] at h; cases f <;> cases h
  | none =>
    refine ⟨rfl, ?_⟩
    rw [hf] at h
    cases hs : s.seq with
    | busy op rest =>
      rw [hs] at h
      exact .inl ⟨op, rest, rfl, (Host.Outcome.next.inj h).symm⟩
    | ready =>
      rw [hs] at h
      refine .inr ⟨rfl, ?_⟩
      simp only [readyMove] at h
      cases hd : dueInput (canMove s) s.inputs with
      | some p =>
        obtain ⟨e, l⟩ := p
        rw [hd] at h
        obtain ⟨d, hl⟩ := dueInput_cases hd
        exact .inl ⟨d, e, l, hl, (Host.Outcome.next.inj h).symm.trans (by rw [hf, hs])⟩
      | none =>
        rw [hd] at h
        cases hc : canMove s with
        | false =>
          rw [hc] at h
          exact .inr (.inl (Host.Outcome.next.inj h).symm)
        | true =>
          rw [hc] at h
          rcases mainLoopTakes_cases s with ⟨hb, hm⟩ | ⟨hb, w, i, hw, hi, hm⟩ | ⟨hb, w, hw, hi, hm⟩ | ⟨hb, hp, hu, hm⟩ |
            ⟨hb, hp, hu, hm⟩ <;> simp only [hm, if_true] at h
          · exact .inr (.inr (.inl ⟨hb, (Host.Outcome.next.inj h).symm⟩))
          · rw [exec_eq] at h
            exact .inr (.inr (.inr (.inl ⟨hb, w, i, hw, hi, (runRequest_next h).2.2⟩)))
          · exact .inr (.inr (.inr (.inr (.inl ⟨hb, w, hw, hi, (Host.Outcome.next.inj h).symm⟩))))
          · exact .inr (.inr (.inr (.inr (.inr ⟨hb, hp, hu, (Host.Outcome.next.inj h).symm⟩))))
          · exact .inr (.inl (Host.Outcome.next.inj h).symm)

end Sys2Proof.Machine
end

