-- ==== Sys2Proof/Tests/Slice0.lean ====
section
/-! SUPPORT. The model's own tests: expected results are those of spec/95_test_vectors.md, named in each test's comment, and
a named witness for the hypotheses of every statement that has some. -/

namespace Sys2Proof.Tests

open Sys2Proof Sys2Proof.Machine

/-! ### Helpers -/

/-- The outcome is a next state of which `f` holds. -/
def nextThat (o : Host.Outcome State Fault Refusal) (f : State → Bool) : Bool :=
  match o with
  | .next t => f t
  | .fault _ => false
  | .refused _ => false

theorem exists_of_nextThat {o : Host.Outcome State Fault Refusal} {f : State → Bool} (h : nextThat o f = true) :
    ∃ t, o = .next t ∧ f t = true := by
  cases o with
  | next t => exact ⟨t, rfl, h⟩
  | fault _ => cases h
  | refused _ => cases h

/-- An initialized block at rest with the default configuration: S0 as far as a test below reads it. -/
def block : State := { State.powerOn defaultParams .high with booted := true, cfg := defaultConfig }

/-- The block with a request pending and its data stage to come. -/
def asked (w : Word24) (s : State) : State := { s with pendingSetup := some w, inputs := wordInputs w }

/-- The block running, on setting 0 (after V-T1). -/
def running : State := { block with acq := .running, wfgPhase := .executing, led := .streaming }

/-- The block on setting 1 (after V-S1). -/
def onIso : State := { block with cfg := { defaultConfig with alt := .iso } }

/-- STOP0 of spec/95_test_vectors.md section 0. -/
def stop0 : List Event := [.wr .wfgAbort 0xFF, .wr .pktend 0x06, .packetEnd .bulk]

/-- The earlier revision, without the idle-gate wait. -/
def noWait : Params := { defaultParams with idleGateWait := false }

/-! ### Well-formedness, decoding, operands -/

/-- The one check: a code of one of the five commands is no unknown code (R105). -/
theorem test_wellFormed_refuses : Instr.wf defaultParams (.vendorUnknown 0xE0 0x00) = false := by decide

theorem test_wellFormed_accepts :
    Instr.wf defaultParams (.vendorUnknown 0xE5 0x00) = true ∧ Instr.wf defaultParams (.vendorIn 0xE0 0xFF) = true := by
  decide

/-- The words of V-D1 to V-D14 and program P3, each written out from R100 and R106. -/
theorem test_decode_volt0 : decode defaultParams 0b010000001110000000001010 = .instr (.volt0 10) := by decide
theorem test_decode_volt1 : decode defaultParams 0b010000001110000100000101 = .instr (.volt1 5) := by decide
theorem test_decode_rate : decode defaultParams 0b010000001110001000011000 = .instr (.rate 24) := by decide
theorem test_decode_acq : decode defaultParams 0b010000001110001100000001 = .instr (.acq 1) := by decide
theorem test_decode_nch : decode defaultParams 0b010000001110010000000001 = .instr (.nch 1) := by decide
theorem test_decode_vendorUnknown : decode defaultParams 0b010000000000101100000001 = .instr (.vendorUnknown 0x0B 1) := by
  decide
theorem test_decode_vendorIn : decode defaultParams 0b110000001110000000000000 = .instr (.vendorIn 0xE0 0) := by decide
theorem test_decode_setAlt : decode defaultParams 0b000000010000101100000001 = .instr (.setAlt 1) := by decide
theorem test_decode_getAlt : decode defaultParams 0b100000010000101000000000 = .instr (.getAlt 0) := by decide
theorem test_decode_notForBlock :
    decode defaultParams 0x000900 = .notForBlock ∧ decode defaultParams 0x410000 = .notForBlock := by decide

/-- A bit above the 24 of a command word is no word (R111). -/
theorem test_tableWord : decodeTableWord 24 0x40E00A = some (.volt0 10) ∧ decodeTableWord 32 0x140E00A = none := by decide

/-- The codes of R270. -/
theorem test_errorCodes :
    [StickyFault.fifoLockup, .startWhileRunning, .vendorIn, .badAlt, .notForBlock].map
      (fun f => (faultKind f).map errorCode) = [some 3, some 4, some 5, some 6, some 7] := by decide

/-- V-A3, V-A4, V-A6, V-A7 and V-A10. -/
theorem test_aadj :
    aadj { defaultConfig with rateKsps := 11999 } = true ∧ aadj { defaultConfig with rateKsps := 12000 } = false ∧
    aadj { defaultConfig with rateKsps := 23999, nch := .one } = true ∧
    aadj { defaultConfig with rateKsps := 24000, nch := .one } = false ∧
    aadj { defaultConfig with rateKsps := 30000 } = false := by decide

/-- V-I1 to V-I4. -/
theorem test_timerTick :
    (envStep .timerTick { block with led := .configuring, ledcnt := 3 }).ledcnt = 2 ∧
    (envStep .timerTick { block with led := .configuring, ledcnt := 1 }).led = .off ∧
    (envStep .timerTick { block with led := .streaming }).led = .streaming := by decide

/-- R195 at single writes: an abort without its delay, a FIFO disable with the first pulse missing, every write after it,
and a first pulse while the generator aborts; none of them for the mandated write. -/
theorem test_lockupAdmitted :
    lockupAdmitted .quiescent .abort { delayed := false, progress := .outside, hazard := false } = true ∧
    lockupAdmitted .quiescent .disableBulk { delayed := true, progress := .due (resetSteps.drop 1), hazard := false } = true ∧
    lockupAdmitted .quiescent .disableIso { delayed := true, progress := .broken, hazard := false } = true ∧
    lockupAdmitted .aborting .firstPulse { delayed := true, progress := .due (resetSteps.drop 1), hazard := false } = true ∧
    lockupAdmitted .quiescent .firstPulse { delayed := true, progress := .due (resetSteps.drop 1), hazard := false } = false ∧
    lockupAdmitted .executing .abort { delayed := true, progress := .outside, hazard := false } = false := by decide

/-! ### One step of each command -/

/-- V-D1. -/
theorem test_volt0 : nextThat (step (asked 0x40E00A block)) (fun t =>
    t.regs.sw = 0x0F ∧ t.vr0 = some .v10 ∧ t.trace = stop0 ++ [.wr .sw 0x0F, .reply 0x40E00A .handled]) = true := by
  decide +kernel

/-- Section 2.1, `VOLT0 0` from S0: rejected, and the prologue stands. -/
theorem test_volt0_rejected : nextThat (step (asked 0x40E000 block)) (fun t =>
    t.regs.sw = 0x03 ∧ t.vr0 = none ∧ t.led = .configuring ∧ t.ledcnt = 3 ∧
    t.trace = stop0 ++ [.reply 0x40E000 .handled]) = true := by
  decide +kernel

/-- Program P2, line 1. -/
theorem test_volt1 : nextThat (step (asked 0x40E10A block)) (fun t =>
    t.regs.sw = 0x63 ∧ t.vr0 = none ∧ t.vr1 = some .v10) = true := by
  decide +kernel

/-- Program P2, line 4: code 7 is rejected. -/
theorem test_volt1_rejected : nextThat (step (asked 0x40E107 { block with vr1 := some .v10 })) (fun t =>
    t.regs.sw = 0x03 ∧ t.vr1 = some .v10) = true := by
  decide +kernel

/-- V-L1. -/
theorem test_rate : nextThat (step (asked 0x40E20C block)) (fun t =>
    t.regs.ifconfig = 0xEA ∧ Memory.read 0 t.pm = some 0x40 ∧ Memory.read 23 t.pm = some 0x57 ∧
    Memory.read 24 t.pm = some 0 ∧ Memory.read 119 t.pm = some 0 ∧ t.pmPtr = 120 ∧ t.cfg.rateId = 12 ∧
    t.cfg.rateKsps = 12000) = true := by
  decide +kernel

/-- V-L3. -/
theorem test_rate_rejected : nextThat (step (asked 0x40E263 block)) (fun t =>
    t.pm = [] ∧ t.cfg = defaultConfig ∧ t.trace = stop0 ++ [.reply 0x40E263 .handled]) = true := by
  decide +kernel

/-- V-T1. -/
theorem test_acq_start : nextThat (step (asked 0x40E301 block)) (fun t =>
    t.acq = .running ∧ t.wfgPhase = .executing ∧ t.led = .streaming ∧ t.ledcnt = 0 ∧
    t.trace = [.wr .wfgAbort 0xFF, .wr .fiforeset 0x80, .wr .fifocfgBulk 0x00, .wr .fifocfgIso 0x00,
      .wr .fifocfgBulk 0x09, .wr .fifocfgIso 0x09, .wr .fiforeset 0x82, .wr .fiforeset 0x86, .wr .fiforeset 0x00,
      .wr .wfgTcH 0x28, .wr .wfgTcL 0x00, .wr .wfgTrig 0x06, .reply 0x40E301 .handled]) = true := by
  decide +kernel

/-- V-T6. -/
theorem test_acq_start_while_running : nextThat (step (asked 0x40E301 running)) (fun t =>
    t.fault = some .startWhileRunning ∧ t.acq = .running ∧ t.trace = []) = true := by
  decide +kernel

/-- V-N5. -/
theorem test_nch : nextThat (step (asked 0x40E401 onIso)) (fun t =>
    t.regs.fifocfgBulk = 0x08 ∧ t.regs.fifocfgIso = 0x08 ∧ t.regs.isoPkts = 0x83 ∧ t.cfg.nch = .one) = true := by
  decide +kernel

/-- V-N4 and V-I6, from Running: rejected, stopped, and the indicator set. -/
theorem test_nch_rejected : nextThat (step (asked 0x40E403 running)) (fun t =>
    t.acq = .idle ∧ t.cfg.nch = .two ∧ t.led = .configuring ∧ t.ledcnt = 3) = true := by
  decide +kernel

/-- V-D16. -/
theorem test_vendorUnknown : nextThat (step (asked 0x40E500 running)) (fun t =>
    t.acq = .running ∧ t.trace = [.reply 0x40E500 .unhandled]) = true := by
  decide +kernel

/-- V-D9. -/
theorem test_vendorIn : nextThat (step (asked 0xC0E000 block)) (fun t =>
    t.fault = some .vendorIn ∧ t.trace = []) = true := by
  decide +kernel

/-- V-D13. -/
theorem test_notForBlock : nextThat (step (asked 0x000900 block)) (fun t =>
    t.fault = some .notForBlock ∧ t.trace = []) = true := by
  decide +kernel

/-- V-S3, with the prologue of the old setting. -/
theorem test_setAlt : nextThat (step (asked 0x010B01 { block with speed := .full })) (fun t =>
    t.cfg.alt = .iso ∧ t.trace = stop0 ++ [.wr .epcfgBulk 0x00, .wr .epcfgIso 0xD8, .wr .eplenIsoH 0x03,
      .wr .eplenIsoL 0xFF, .wr .isoPkts 0x81, .reply 0x010B01 .handled]) = true := by
  decide +kernel

/-- V-D11. -/
theorem test_setAlt_refused : nextThat (step (asked 0x010B02 block)) (fun t =>
    t.fault = some .badAlt ∧ t.trace = []) = true := by
  decide +kernel

/-- V-D12. -/
theorem test_getAlt : nextThat (step (asked 0x810A00 block)) (fun t =>
    t.trace = [.alt .bulk, .reply 0x810A00 .handled]) = true := by
  decide +kernel

/-! ### Witnesses: for each statement with hypotheses, a state and operands that meet all of them -/

/-- The block with the data stage `b` to come. -/
def withData (b : Byte) (s : State) : State := { s with inputs := [dataIn { first := b, more := [] }] }

theorem witness_DecodeOfEncodeIsTheCommand :
    defaultParams.CodesDistinct ∧ Instr.wf defaultParams (.volt0 0) = true ∧
    Instr.wf defaultParams (.vendorUnknown 0xDF 0xFF) = true ∧ Instr.wf defaultParams (.vendorUnknown 0xE5 0) = true := by
  decide

theorem witness_EncodeOfDecodeIsTheWord :
    decode defaultParams 0x40E4FF = .instr (.nch 0xFF) ∧ decode defaultParams 0x810AFF = .instr (.getAlt 0xFF) := by decide

theorem witness_OpcodeMapDecodes :
    (0xDF : Byte) ∉ [(0xE0 : Byte), 0xE1, 0xE2, 0xE3, 0xE4] ∧ (0xE5 : Byte) ∉ [(0xE0 : Byte), 0xE1, 0xE2, 0xE3, 0xE4] ∧
    (0x01 : Byte) ∉ [(0x40 : Byte), 0xC0] ∧ ¬ ((0x01 : Byte) = 0x01 ∧ (0x0A : Byte) = 0x0B) ∧
    ¬ ((0x01 : Byte) = 0x81 ∧ (0x0A : Byte) = 0x0A) := by decide

/-- Every clause at its bounds. -/
theorem witness_AcceptedOperandValues :
    voltageCode 1 = some .v1 ∧ voltageCode 10 = some .v10 ∧ voltageCode 0 = none ∧ voltageCode 11 = none ∧
    channelCount 1 = some .one ∧ channelCount 2 = some .two ∧ channelCount 0 = none ∧ channelCount 3 = none ∧
    altSetting 0 = some .bulk ∧ altSetting 1 = some .iso ∧ altSetting 2 = none ∧
    (∃ p ∈ defaultParams.rateTable, p.id = 1) := by decide

theorem witness_PowerOnState : ({ block with fault := some .badAlt } : State).fault ≠ none := by decide

theorem witness_InitializationLeavesTheTable : defaultParams.Ok := by decide

theorem witness_StepRunsTheDecodedCommand :
    CanTake (asked 0x40E00A block) ∧ (asked 0x40E00A block).booted = true ∧ (asked 0x40E00A block).suspended = false ∧
    (asked 0x40E00A block).pendingSetup = some 0x40E00A ∧
    decode (asked 0x40E00A block).params 0x40E00A = .instr (.volt0 10) ∧ quiet (asked 0x40E00A block).inputs = true := by
  decide

theorem witness_PlacedWordRunsNext :
    CanTake (bootedState block) ∧ (bootedState block).booted = true ∧ (bootedState block).suspended = false ∧
    tableWord 24 0xC0E000 = some 0xC0E000 ∧ decode (bootedState block).params 0xC0E000 = .instr (.vendorIn 0xE0 0) := by
  decide

/-- The same from reset, where `withFetchWord` runs the initialization. -/
theorem witness_PlacedWordRunsNext_reset :
    CanTake (bootedState State.reset) ∧ (bootedState State.reset).booted = true ∧
    (bootedState State.reset).suspended = false := by
  decide +kernel

theorem witness_MainLoopTakesRequestThenSuspend :
    (CanTake block ∧ block.booted = true ∧ block.suspended = false ∧ quiet block.inputs = true) ∧
    (asked 0x810A00 { block with pendingSuspend := true }).pendingSetup = some 0x810A00 ∧
    decode defaultParams 0x810A00 = .instr (.getAlt 0) ∧
    (asked 0x000900 block).pendingSetup = some 0x000900 ∧ decode defaultParams 0x000900 = .notForBlock ∧
    ({ block with pendingSuspend := true } : State).pendingSetup = none ∧
    block.pendingSetup = none ∧ block.pendingSuspend = false ∧ block.inputs = [] := by decide

/-- A plain micro-operation, a wait whose condition holds, and one whose condition does not. -/
theorem witness_SequencerExecutesTheNextMicroOperation :
    (∃ (s : State) (op : Op) (rest : List Micro), s.fault = none ∧ s.seq = .busy op (.act .sync :: rest) ∧
      quiet s.inputs = true) ∧
    (∃ (s : State) (op : Op) (rest : List Micro), s.fault = none ∧ s.seq = .busy op (.wait .gate :: rest) ∧
      quiet s.inputs = true ∧ waitHolds .gate s = true) ∧
    (∃ (s : State) (op : Op) (rest : List Micro), s.fault = none ∧ s.seq = .busy op (.wait .gate :: rest) ∧
      waitHolds .gate s = false ∧ s.inputs = []) :=
  ⟨⟨{ block with seq := .busy .initialization [.act .sync] }, .initialization, [], by decide⟩,
   ⟨{ block with seq := .busy .initialization [.wait .gate] }, .initialization, [], by decide⟩,
   ⟨{ running with seq := .busy .initialization [.wait .gate] }, .initialization, [], by decide⟩⟩

theorem witness_StepIsARunOfTurns : ∃ t, step (asked 0x810A00 block) = .next t ∧ decide (t.trace.length = 2) = true :=
  exists_of_nextThat (by decide +kernel)

theorem witness_FaultedBlockHasNoStep :
    ({ block with fault := some .fifoLockup } : State).fault = some .fifoLockup := by decide

theorem witness_OneRequestAtATime : ∃ (s : State) (op : Op) (rest : List Micro), s.fault = none ∧ s.seq = .busy op rest :=
  ⟨{ block with seq := .busy .initialization [] }, .initialization, [], by decide⟩

/-- The two branches, at 0 and at 1. -/
theorem witness_TimerTickDecaysTheIndicator :
    block.suspended = false ∧ block.ledcnt = 0 ∧ ({ block with ledcnt := 1 } : State).suspended = false := by decide

/-- Each event that is excluded somewhere is another event elsewhere. -/
theorem witness_EnvironmentKeepsTheBlocksState :
    EnvEvent.wake ≠ .lockup ∧ EnvEvent.wake ≠ .timerTick ∧ (∀ w, EnvEvent.wake ≠ .setup w) ∧
    (∀ d, EnvEvent.wake ≠ .dataStage d) ∧ (∀ sp, EnvEvent.wake ≠ .setSpeed sp) ∧ EnvEvent.wake ≠ .wfgQuiesce ∧
    EnvEvent.wake ≠ .wfgFinish ∧ (∀ f, EnvEvent.wake ≠ .fifoFill f ∧ EnvEvent.wake ≠ .fifoDrain f) ∧
    EnvEvent.wake ≠ .suspend ∧ EnvEvent.suspend ≠ .wake := by simp

theorem witness_GeneratorPhaseTransitions :
    Reg.pktend ≠ .wfgTrig ∧ Reg.pktend ≠ .wfgAbort ∧ block.suspended = false ∧
    ({ block with suspended := true } : State).suspended = true := by decide

theorem witness_DataStageOnlyWhileHeld :
    (∃ (s : State) (op : Op) (rest : List Micro), s.seq = .busy op (.wait .payload :: rest) ∧ s.ep0 = none) ∧
    (∀ op rest, block.seq ≠ .busy op (.wait .payload :: rest)) ∧
    ({ block with ep0 := some { first := 1, more := [] } } : State).ep0 ≠ none :=
  ⟨⟨{ block with seq := .busy .initialization [.wait .payload] }, .initialization, [], by decide⟩,
   fun _ _ => by simp [block, State.powerOn], by decide⟩

theorem witness_SetupInterruptMarksPending :
    (block.pendingSetup = none ∧ block.seq = .ready) ∧ ({ block with pendingSetup := some 0 } : State).pendingSetup ≠ none ∧
    ({ block with seq := .busy .initialization [] } : State).seq ≠ .ready := by decide

theorem witness_SpeedChangeTriggersNothing :
    ∃ (s : State) (sp : Speed) (l : List Input), CanTake s ∧ s.inputs = { due := .afterOps 0, ev := .setSpeed sp } :: l :=
  ⟨{ block with inputs := [{ due := .afterOps 0, ev := .setSpeed .full }] }, .full, [], by decide⟩

theorem witness_SuspendHookHoldsUntilWake :
    (∃ (s : State) (l : List Input), CanTake s ∧ s.booted = true ∧ s.suspended = false ∧ s.wake = false ∧
      s.pendingSetup = none ∧ s.pendingSuspend = true ∧ quiet l = true ∧
      s.inputs = { due := .whenHeld, ev := .timerTick } :: { due := .whenHeld, ev := .wake } :: l) ∧
    (∃ s : State, CanTake s ∧ s.booted = true ∧ s.suspended = false ∧ s.wake = false ∧ s.pendingSetup = none ∧
      s.pendingSuspend = true ∧ s.inputs = []) :=
  ⟨⟨{ running with
      pendingSuspend := true
      inputs := [{ due := .whenHeld, ev := .timerTick }, { due := .whenHeld, ev := .wake }] }, [], by decide⟩,
   ⟨{ running with pendingSuspend := true }, by decide⟩⟩

/-- The hypotheses of the statements about a command and its data stage: VOLT0 and VOLT1, NCH, RATE, and ACQ with any
payload but 1, at the values where their clauses meet. -/
theorem witness_PayloadComes :
    ∀ b ∈ [(0 : Byte), 1, 2, 3, 4, 5, 9, 10, 11, 12, 255],
      CanTake (withData b running) ∧ PayloadComes { first := b, more := [] } [] (withData b running) := by decide

theorem witness_ChannelFieldsAreIsolated : defaultParams.Ok ∧ Channel.ch1 ≠ .ch0 ∧ 0 < 3 ∧ 2 < 3 := by decide

theorem witness_VoltCommandKeepsTheOtherBits :
    ∃ t, exec (.volt1 0) (withData 10 block) = .next t ∧ decide (t.regs.sw = 0x63) = true :=
  exists_of_nextThat (by decide +kernel)

theorem witness_RateCommandLeavesTheImage :
    120 ≤ defaultParams.progMemBytes ∧ lookupProfile defaultParams 12 = some profileT12 ∧
    lookupProfile defaultParams 99 = none ∧
    CanTake (withData 12 block) ∧ PayloadComes { first := 12, more := [] } [] (withData 12 block) := by decide

theorem witness_LookupFindsTheUniqueProfile : defaultParams.TableOk := by decide

/-- SETALT, GETALT, VENDOR_UNKNOWN and VENDOR_IN: a block at rest and quiet inputs, none or one. -/
theorem witness_quiet :
    (CanTake block ∧ quiet block.inputs = true) ∧
    (CanTake (withData 1 running) ∧ quiet (withData 1 running).inputs = true) ∧
    altSetting 0 = some .bulk ∧ altSetting 1 = some .iso ∧ altSetting 2 = none := by decide

theorem witness_AutoAdjustThresholds :
    defaultConfig.nch = .two ∧ ({ defaultConfig with nch := .one } : AcqConfig).nch = .one := by decide

theorem witness_AcqOtherThanOneStops : (0 : Byte) ≠ 1 ∧ (2 : Byte) ≠ 1 ∧ (255 : Byte) ≠ 1 := by decide

theorem witness_StopTwiceIsStopOnce :
    CanTake (withData 0 running) ∧ PayloadComes { first := 0, more := [] } [] (withData 0 running) ∧ (0 : Byte) ≠ 1 ∧
    quiet [] = true := by decide

/-- From a quiescent generator, in the earlier revision from an executing one, and a restart. -/
theorem witness_AcqOneStarts :
    ∀ s ∈ [block, { running with acq := .idle, params := noWait },
        { running with params := { noWait with startWhileRunning := .restart } }],
      CanTake (withData 1 s) ∧ PayloadComes { first := 1, more := [] } [] (withData 1 s) ∧
      ¬ (s.acq = .running ∧ s.params.startWhileRunning = .fault) ∧
      (s.wfgPhase = .quiescent ∨ s.params.idleGateWait = false) := by decide

theorem witness_AcqOneWaitsForTheIdleGate :
    ∃ (s : State) (d : DataStage) (l : List Input), CanTake s ∧ s.ep0 = none ∧ s.suspended = false ∧
      s.inputs = dataIn d :: quiesceIn :: l ∧ quiet l = true ∧ d.first = 1 ∧ ¬ (s.acq = .running ∧ s.params.startWhileRunning = .fault) ∧ s.wfgPhase ≠ .quiescent ∧
      s.params.idleGateWait = true :=
  ⟨{ running with acq := .idle, inputs := [dataIn { first := 1, more := [] }, quiesceIn] }, { first := 1, more := [] }, [],
   by decide⟩

theorem witness_AcqOneHangsWithoutTheIdleGate :
    ∃ (s : State) (d : DataStage), CanTake s ∧ PayloadComes d [] s ∧ d.first = 1 ∧
      ¬ (s.acq = .running ∧ s.params.startWhileRunning = .fault) ∧ s.wfgPhase ≠ .quiescent ∧
      s.params.idleGateWait = true :=
  ⟨withData 1 { running with acq := .idle, wfgPhase := .aborting }, { first := 1, more := [] }, by decide⟩

theorem witness_AcqOneWhileRunningFaults :
    ∃ (s : State) (d : DataStage) (l : List Input), CanTake s ∧ PayloadComes d l s ∧ d.first = 1 ∧ s.acq = .running ∧
      s.params.startWhileRunning = .fault :=
  ⟨withData 1 running, { first := 1, more := [] }, [], by decide⟩

theorem witness_LockupAdmittedWithoutTheWait :
    ∃ (s : State) (d : DataStage), CanTake s ∧ WatchIdle s ∧ s.ep0 = none ∧ d.first = (1 : Byte) ∧
      ¬ (s.acq = .running ∧ s.params.startWhileRunning = .fault) ∧ s.wfgPhase = .executing ∧
      s.params.idleGateWait = false ∧ d.more = [] :=
  ⟨{ running with acq := .idle, params := noWait }, ({ first := 1, more := [] } : DataStage), by decide⟩

theorem witness_ForeignWordIsRefused :
    ∃ (s : State) (w : Word24), CanTake s ∧ s.booted = true ∧ s.suspended = false ∧ s.pendingSetup = some w ∧
      decode s.params w = .notForBlock ∧ quiet s.inputs = true :=
  ⟨asked 0x000900 block, 0x000900, by decide⟩

/-- The same with a timer tick between the two micro-operations. -/
theorem witness_ForeignWordIsRefused_tick :
    ∃ (s : State) (w : Word24) (l : List Input), CanTake s ∧ s.booted = true ∧ s.suspended = false ∧
      s.pendingSetup = some w ∧ decode s.params w = .notForBlock ∧
      s.inputs = { due := .afterOps 1, ev := .timerTick } :: l ∧ quiet l = true :=
  ⟨{ asked 0x000900 block with inputs := [{ due := .afterOps 1, ev := .timerTick }] }, 0x000900, [], by decide⟩

theorem witness_MissingDataStageHoldsTheBlock : CanTake running ∧ running.ep0 = none ∧ running.inputs = [] := by decide

/-- The statements about every next state of a command: one is reached, with acquisition running before it. -/
theorem witness_everyNextState :
    isConfigCommand (.nch 0) = true ∧
    ∃ t, exec (.nch 0) (withData 1 running) = .next t ∧ decide (t.fault = none ∧ t.acq = .idle) = true :=
  ⟨by decide, exists_of_nextThat (by decide +kernel)⟩

/-- A command that is held: neither Ready nor faulted. -/
theorem witness_OneReplyPerCommand_held :
    ∃ t, exec (.nch 0) running = .next t ∧ decide (t.seq ≠ .ready ∧ t.fault = none) = true :=
  exists_of_nextThat (by decide +kernel)

theorem witness_ProgramMemoryStaysCanonical :
    PmOk { block with pm := [(0, 1), (119, 0)] } ∧
    ∃ t, step (asked 0x40E218 block) = .next t ∧ decide (Memory.read 0 t.pm = some 0x80) = true :=
  ⟨by decide, exists_of_nextThat (by decide +kernel)⟩

/-- The power-on state meets the invariants, and steps. -/
theorem witness_BlockInvariantIsKept :
    BlockInv State.reset ∧ NoRace State.reset ∧ ∃ t, step State.reset = .next t ∧ decide (t.booted = true) = true := by
  refine ⟨⟨by decide, by decide, by decide, fun _ => by decide, fun h => ?_, fun h => ?_⟩,
    ⟨by decide, by decide, by decide, by decide, by decide⟩, exists_of_nextThat (by decide +kernel)⟩
  · cases h
  · cases h

/-- So does the initialized block. -/
theorem witness_BlockInvariantIsKept_initialized :
    (bootedState State.reset).booted = true ∧ BlockInv (bootedState State.reset) ∧ NoRace (bootedState State.reset) := by
  have hs : (bootedState State.reset).seq = .ready ∧ (bootedState State.reset).ep0 = none ∧
      (bootedState State.reset).suspended = false ∧ (bootedState State.reset).cfg = defaultConfig := by decide +kernel
  refine ⟨by decide +kernel, ⟨by decide +kernel, by decide +kernel, by decide +kernel, fun _ => ⟨hs.1, hs.2.1, hs.2.2.1⟩,
    fun _ _ => .inl ⟨hs.1, hs.2.1, hs.2.2.1⟩, fun _ _ => ⟨⟨profileT1, by decide +kernel⟩, by decide +kernel,
      by decide +kernel, ?_, ⟨.high, ?_⟩, fun h => ?_⟩⟩,
    ⟨by decide +kernel, by decide +kernel, by decide +kernel, by decide +kernel, by decide +kernel⟩⟩
  · rw [hs.2.2.2]
    show _ ∧ _
    decide +kernel
  · rw [hs.2.2.2]
    show _ ∧ _
    decide +kernel
  · rw [hs.2.2.2] at h
    cases h

/-- And so does a block held at the idle gate, as far as races go. -/
theorem witness_NoRace_atGate :
    ∃ t, exec (.acq 1) (withData 1 { running with acq := .idle }) = .next t ∧
      decide (atGate t = true ∧ t.watch.delayed = true ∧ t.watch.hazard = false ∧
        t.watch.progress = .due (resetSteps.drop 1) ∧ t.fault = none) = true :=
  exists_of_nextThat (by decide +kernel)

end Sys2Proof.Tests
end

section
/-! PROOFS. The scope statements: every step is a run of turns, and what every turn keeps every step keeps (the parameters,
and the agreement of registers and program memory with the trace); a word that is not for the block is refused. -/

namespace Sys2Proof.Machine

/-! ### A step in terms of turns -/

/-- A faulted block answers its fault (R67). -/
theorem step_faulted {s : State} {f : StickyFault} (hf : s.fault = some f) : step s = stopped f := by
  simp [step, nextMove, hf]

/-- No sticky fault answers a next state (R67). -/
theorem stopped_ne_next (f : StickyFault) (t : State) : stopped f ≠ .next t := by
  cases f <;> simp [stopped]

/-- In the middle of an operation the step carries it on. -/
theorem step_busy {s : State} {op : Op} {rest : List Micro} (hf : s.fault = none) (hb : s.seq = .busy op rest) :
    step s = .next (carryOn s) := by
  simp [step, nextMove, hf, hb]

/-- In the middle of an operation the machine's turn is the sequencer's. -/
theorem tick_busy {s : State} {op : Op} {rest : List Micro} (hb : s.seq = .busy op rest) :
    tick s = turn sequencerStep s := by
  simp [tick, turn, threadStep, hb]

/-- An operation that is over is not carried on. -/
theorem carryOn_ready {s : State} (h : s.seq = .ready) : carryOn s = s := run_ready h

/-- No step of another agent begins an operation (R60). -/
theorem envStep_seq_ready (e : EnvEvent) {s : State} (hs : s.seq = .ready) : (envStep e s).seq = .ready := by
  have hcost := (envStep_seqCost e s).1
  cases he : (envStep e s).seq with
  | ready => rfl
  | busy op rest => simp [he, hs, seqCost] at hcost

/-- A command's sequence does not depend on the inputs. -/
theorem dispatchOps_counted (i : Instr) (s : State) : dispatchOps i (counted s) = dispatchOps i s := by
  cases i <;> rfl

/-- A block at rest whose thread has a step has something to take (R282). -/
theorem mainLoopTakes_ne_nothing {s : State} (hs : s.seq = .ready) (hc : canMove s = true) :
    mainLoopTakes s ≠ .nothing := by
  rcases mainLoopTakes_cases s with ⟨_, hm⟩ | ⟨_, w, i, _, _, hm⟩ | ⟨_, w, _, _, hm⟩ | ⟨_, _, _, hm⟩ | ⟨hb, hp, hu, _⟩
  · simp [hm]
  · simp [hm]
  · simp [hm]
  · simp [hm]
  · simp [canMove, hs, hb, hp, hu] at hc

/-- With the thread at rest the next move is the main loop's. -/
theorem nextMove_ready {s : State} (hs : CanTake s) : nextMove s = readyMove s := by
  obtain ⟨hf, hq⟩ := hs
  simp only [nextMove, hf, hq]

/-- What the main loop takes, it takes in one turn, and the step carries it on. -/
theorem step_mainLoop {s : State} (hs : CanTake s) (hc : canMove s = true) (hd : dueInput true s.inputs = none) :
    step s = .next (carryOn (mainLoopStep (counted s))) := by
  have ht : mainLoopTakes (counted s) = mainLoopTakes s := rfl
  simp only [step, nextMove_ready hs, readyMove, hd, hc, if_true, mainLoopStep, ht]
  cases hm : mainLoopTakes s with
  | nothing => exact absurd hm (mainLoopTakes_ne_nothing hs.2 hc)
  | request i => simp only [exec_eq, runRequest_of_canTake hs, dispatchOps_counted]
  | initialization => rfl
  | notForBlock w => rfl
  | suspend => rfl

/-- With the thread at rest a step is one turn, with the operation it begins carried on, or none where nothing can move. -/
theorem step_ready {s : State} (hs : CanTake s) : step s = .next ((tick s).elim s carryOn) := by
  cases hd : dueInput (canMove s) s.inputs with
  | some p =>
    obtain ⟨e, l⟩ := p
    have ht : tick s = some (envStep e { s with inputs := l }) := by simp [tick, turn, hs.1, hd]
    have hr : (envStep e { s with inputs := l }).seq = .ready := envStep_seq_ready e hs.2
    simp only [step, nextMove_ready hs, readyMove, hd, ht, Option.elim_some, carryOn_ready hr]
  | none =>
    cases hc : canMove s with
    | false =>
      rw [hc] at hd
      have ht : tick s = none := by simp [tick, turn, hs.1, hc, hd]
      simp [step, nextMove_ready hs, readyMove, hc, hd, ht]
    | true =>
      rw [hc] at hd
      have ht : tick s = some (mainLoopStep (counted s)) := by simp [tick, turn, threadStep, hs.1, hs.2, hc, hd]
      rw [step_mainLoop hs hc hd, ht, Option.elim_some]

/-! ### Runs of turns -/

theorem ticks_succ {s s' : State} (n : Nat) (h : tick s = some s') : ticks (n + 1) s = ticks n s' := by
  simp [ticks, h]

/-- A run of the sequencer is a finite number of turns. -/
theorem exists_ticks_run (n : Nat) (s : State) : ∃ k, ticks k s = some (run n s) := by
  induction n generalizing s with
  | zero => exact ⟨0, rfl⟩
  | succ n ih =>
    cases hs : s.seq with
    | ready => exact ⟨0, by rw [run_ready hs]; rfl⟩
    | busy op rest =>
      cases ht : turn sequencerStep s with
      | none => exact ⟨0, by simp [ticks, run, hs, ht]⟩
      | some s' =>
        obtain ⟨k, hk⟩ := ih s'
        exact ⟨k + 1, by simp [ticks_succ k ((tick_busy hs).trans ht), run, hs, ht, hk]⟩

/-- Settles O12: a step is at most one turn of the block at rest, then the turns of the operation in progress. -/
theorem stepIsARunOfTurns : Obligations.StepIsARunOfTurns := by
  intro s t h
  cases hf : s.fault with
  | some f => exact absurd ((step_faulted hf).symm.trans h) (stopped_ne_next f t)
  | none =>
    cases hs : s.seq with
    | busy op rest =>
      have ht : carryOn s = t := Host.Outcome.next.inj ((step_busy hf hs).symm.trans h)
      exact ht ▸ exists_ticks_run (fuel s) s
    | ready =>
      have ht : (tick s).elim s carryOn = t := Host.Outcome.next.inj ((step_ready ⟨hf, hs⟩).symm.trans h)
      cases hk : tick s with
      | none => exact ⟨0, by simpa [ticks, hk] using ht⟩
      | some s' =>
        obtain ⟨n, hn⟩ := exists_ticks_run (fuel s') s'
        exact ⟨n + 1, by rw [ticks_succ n hk, hn, ← ht, hk]; rfl⟩

/-- What every turn keeps, any number of turns keeps. -/
theorem ticks_keeps {I : State → Prop} (h : ∀ s s', I s → tick s = some s' → I s') (n : Nat) {s t : State} (hs : I s)
    (ht : ticks n s = some t) : I t := by
  induction n generalizing s with
  | zero => exact Option.some.inj ht ▸ hs
  | succ n ih =>
    cases hk : tick s with
    | none => simp [ticks, hk] at ht
    | some s' => exact ih (h s s' hs hk) (ticks_succ n hk ▸ ht)

/-- What every turn keeps, every step keeps. -/
theorem step_keeps {I : State → Prop} (h : ∀ s s', I s → tick s = some s' → I s') {s t : State} (hs : I s)
    (ht : step s = .next t) : I t := by
  obtain ⟨n, hn⟩ := stepIsARunOfTurns s t ht
  exact ticks_keeps h n hs hn

/-- A turn, inverted, by its agent: another agent's step, the main loop's, or the sequencer's. -/
theorem tick_cases {s s' : State} (h : tick s = some s') :
    s.fault = none ∧
    ((∃ d e l, s.inputs = { due := d, ev := e } :: l ∧ s' = envStep e { s with inputs := l }) ∨
     (s.seq = .ready ∧ canMove s = true ∧ s' = mainLoopStep (counted s)) ∨
     (∃ op, s.seq = .busy op [] ∧ s' = { counted s with seq := .ready }) ∨
     (∃ op m rest, s.seq = .busy op (m :: rest) ∧ canMove s = true ∧ s' = microStep op m rest (counted s))) := by
  obtain ⟨hf, he | ⟨hc, rfl⟩⟩ := turn_cases h
  · exact ⟨hf, .inl he⟩
  · refine ⟨hf, .inr ?_⟩
    cases hs : s.seq with
    | ready => exact .inl ⟨rfl, hc, by simp [threadStep, hs]⟩
    | busy op rest =>
      cases rest with
      | nil => exact .inr (.inl ⟨op, rfl, by simp [threadStep, sequencerStep, hs]⟩)
      | cons m rest => exact .inr (.inr ⟨op, m, rest, rfl, hc, by simp [threadStep, sequencerStep, hs]⟩)

/-! ### The parameters, the trace, and what follows from it -/

/-- `t` comes after `s`: the parameters are the same, the trace has grown, and the registers and program memory are those
of `s` with the new events replayed (R10, R66). -/
def Follows (s t : State) : Prop :=
  t.params = s.params ∧ ∃ l, t.trace = s.trace ++ l ∧
    t.regs = l.foldl (fun g e => replayReg e g) s.regs ∧
    t.pm = l.foldl (fun m e => replayPm e m) s.pm

/-- A change of other fields only. -/
theorem follows_of_eq {s t : State} (hP : t.params = s.params) (ht : t.trace = s.trace) (hr : t.regs = s.regs)
    (hm : t.pm = s.pm) : Follows s t :=
  ⟨hP, [], by simp [ht], hr, hm⟩

theorem Follows.refl (s : State) : Follows s s := follows_of_eq rfl rfl rfl rfl

theorem Follows.trans {s t u : State} (h : Follows s t) (h' : Follows t u) : Follows s u := by
  obtain ⟨hP, l, ht, hr, hm⟩ := h
  obtain ⟨hP', l', ht', hr', hm'⟩ := h'
  exact ⟨hP'.trans hP, l ++ l', by simp [ht, ht'], by simp [hr, hr'], by simp [hm, hm']⟩

/-- One event that touches neither the registers nor program memory. -/
theorem follows_emit {e : Event} (hr : ∀ g, replayReg e g = g) (hm : ∀ m, replayPm e m = m) (s : State) :
    Follows s (emit e s) :=
  ⟨rfl, [e], rfl, (hr s.regs).symm, (hm s.pm).symm⟩

/-- The events of a register write replay it; the packet end adds nothing (R51, R66). -/
theorem follows_writeReg (r : Reg) (v : Byte) (s : State) : Follows s (writeReg r v s) :=
  ⟨rfl, writeEvents r v s.cfg.alt, rfl, by cases r <;> rfl, by cases r <;> rfl⟩

theorem follows_pmWrite (v : Byte) (s : State) : Follows s (pmWrite v s) := by
  rcases pmWrite_cases v s with ⟨_, h⟩ | ⟨_, h⟩ <;> rw [h]
  · exact ⟨rfl, [.pm s.pmPtr v], rfl, rfl, rfl⟩
  · exact follows_of_eq rfl rfl rfl rfl

theorem follows_actEffect (a : Act) (s : State) : Follows s (actEffect a s) := by
  cases a with
  | wr r v => exact follows_writeReg r v s
  | resetWrite k => exact follows_writeReg (resetReg k) (resetByte s.params s.cfg.nch k) s
  | writeIsoPkts => exact follows_writeReg .isoPkts (isoPktsByte s.params s.cfg s.speed) s
  | pmWrite v => exact follows_pmWrite v s
  | emitAlt => exact follows_emit (fun _ => rfl) (fun _ => rfl) s
  | setVr ch c => cases ch <;> exact follows_of_eq rfl rfl rfl rfl
  | _ => exact follows_of_eq rfl rfl rfl rfl

theorem follows_reply (op : Op) (r : ReplyKind) (s : State) : Follows s (reply op r s) := by
  cases op with
  | dispatch w => exact follows_emit (e := .reply w r) (fun _ => rfl) (fun _ => rfl) s
  | initialization => exact follows_of_eq rfl rfl rfl rfl
  | suspendHook => exact follows_of_eq rfl rfl rfl rfl

theorem follows_microStep (op : Op) (m : Micro) (rest : List Micro) (s : State) : Follows s (microStep op m rest s) := by
  cases m with
  | act a => exact follows_actEffect a (closeHazard s)
  | wait c =>
    simp only [microStep]
    split <;> exact follows_of_eq rfl rfl rfl rfl
  | readPayload k =>
    simp only [microStep]
    split <;> exact follows_of_eq rfl rfl rfl rfl
  | sampleSpeed a => exact follows_of_eq rfl rfl rfl rfl
  | reply r => exact follows_reply op r (closeHazard s)
  | raise f => exact follows_of_eq rfl rfl rfl rfl

/-- Taking a request, a suspend or initialization writes nothing (R282). -/
theorem follows_mainLoopStep (s : State) : Follows s (mainLoopStep s) := by
  unfold mainLoopStep
  split <;> exact follows_of_eq rfl rfl rfl rfl

theorem follows_setFifo (f : Alt) (x : FifoState) (s : State) : Follows s (setFifo f x s) := by
  cases f <;> exact follows_of_eq rfl rfl rfl rfl

/-- No other agent writes a register, program memory, the trace or the parameters (R30, R60). -/
theorem follows_envStep (e : EnvEvent) (s : State) : Follows s (envStep e s) := by
  cases e with
  | fifoFill f =>
    simp only [envStep]
    split
    · exact follows_setFifo f .data s
    · exact Follows.refl s
  | fifoDrain f => exact follows_setFifo f .empty s
  | setSpeed sp => exact follows_of_eq rfl rfl rfl rfl
  | suspend => exact follows_of_eq rfl rfl rfl rfl
  | wake => exact follows_of_eq rfl rfl rfl rfl
  | _ =>
    simp only [envStep]
    split <;> exact follows_of_eq rfl rfl rfl rfl

theorem follows_tick {s s' : State} (h : tick s = some s') : Follows s s' := by
  obtain ⟨_, ⟨d, e, l, _, rfl⟩ | ⟨_, _, rfl⟩ | ⟨op, _, rfl⟩ | ⟨op, m, rest, _, _, rfl⟩⟩ := tick_cases h
  · exact follows_envStep e { s with inputs := l }
  · exact follows_mainLoopStep (counted s)
  · exact follows_of_eq rfl rfl rfl rfl
  · exact follows_microStep op m rest (counted s)

theorem follows_step {s t : State} (h : step s = .next t) : Follows s t :=
  step_keeps (I := Follows s) (fun _ _ hu hk => hu.trans (follows_tick hk)) (Follows.refl s) h

/-- Settles O51: each turn appends the events that replay its own writes, and steps are runs of turns. -/
theorem registersFollowFromTheTrace : Obligations.RegistersFollowFromTheTrace :=
  fun _ _ h => (follows_step h).2

/-- Settles O52: no turn changes the parameters, and steps are runs of turns. -/
theorem parametersNeverChange : Obligations.ParametersNeverChange :=
  fun _ _ h => (follows_step h).1

/-! ### A word that is not for the block -/

/-- A timer tick leaves the operation in progress, the fault and the inputs alone (R284). -/
theorem envStep_timerTick_keeps (s : State) :
    (envStep .timerTick s).fault = s.fault ∧ (envStep .timerTick s).seq = s.seq ∧
    (envStep .timerTick s).inputs = s.inputs := by
  simp only [envStep]
  split <;> exact ⟨rfl, rfl, rfl⟩

/-- The dispatch of a word that is not for the block is its raise (R254). -/
theorem run_foreign {n : Nat} {s : State} {op : Op} (hf : s.fault = none) (hs : s.seq = .busy op foreignOps)
    (hq : quiet s.inputs = true) : run (n + 1) s = raise .notForBlock (closeHazard s) := by
  rw [run_micro hf hs hq (by simp [canMove, hs, foreignOps])]
  exact run_faulted rfl

theorem carryOn_foreign {s : State} {op : Op} (hf : s.fault = none) (hs : s.seq = .busy op foreignOps)
    (hq : quiet s.inputs = true) : carryOn s = raise .notForBlock (closeHazard s) := by
  rw [carryOn, fuel, Nat.add_comm]
  exact run_foreign hf hs hq

/-- The same with a timer tick that comes before the raise. -/
theorem carryOn_foreign_tick {s : State} {op : Op} {l : List Input} (hf : s.fault = none)
    (hs : s.seq = .busy op foreignOps) (hl : s.inputs = { due := .afterOps 0, ev := .timerTick } :: l)
    (hq : quiet l = true) :
    carryOn s = raise .notForBlock (closeHazard (envStep .timerTick { s with inputs := l })) := by
  obtain ⟨hf', hs', hl'⟩ := envStep_timerTick_keeps { s with inputs := l }
  rw [carryOn, fuel, hl, List.length_cons, ← Nat.add_assoc, run_due hf hs hl, Nat.add_comm]
  exact run_foreign (hf'.trans hf) (hs'.trans hs) (by rw [hl']; exact hq)

/-- A block at rest takes a word that is not for it, when no input comes first, and its dispatch is carried on (R282). -/
theorem step_foreign {s : State} {w : Word24} (hs : CanTake s) (hb : s.booted = true) (hu : s.suspended = false)
    (hw : s.pendingSetup = some w) (hn : decode s.params w = .notForBlock) (hd : dueInput true s.inputs = none) :
    step s = .next (carryOn (takeForeign w (counted s))) := by
  have hc : canMove s = true := by simp [canMove, hs.2, hu, hw]
  have hm : mainLoopStep (counted s) = takeForeign w (counted s) := by simp [mainLoopStep, mainLoopTakes, hb, hw, hn]
  rw [step_mainLoop hs hc hd, hm]

/-- Settles O45: the word is taken and its one micro-operation raises the fault; a tick due after one micro-operation of
the thread comes between the two. -/
theorem foreignWordIsRefused : Obligations.ForeignWordIsRefused := by
  intro s w hs hb hu hw hn
  refine ⟨fun hq => ⟨_, step_foreign hs hb hu hw hn (dueInput_of_quiet hq), ?_⟩,
    fun l hl hq => ⟨_, step_foreign hs hb hu hw hn (by rw [hl]; rfl), ?_⟩⟩
  · rw [counted_of_quiet hq, carryOn_foreign (s := takeForeign w s) hs.1 rfl hq]
    simp [AgreesButWatch, raise, closeHazard, takeWord, hs.2]
  · have hi : (takeForeign w (counted s)).inputs = { due := .afterOps 0, ev := .timerTick } :: l := by
      simp [hl, countOp]
    rw [carryOn_foreign_tick (s := takeForeign w (counted s)) hs.1 rfl hi hq]
    by_cases hk : 0 < s.ledcnt <;>
      simp [AgreesButWatch, envStep, hu, hk, raise, closeHazard, takeWord, counted, hs.2]

end Sys2Proof.Machine
end

section
/-! PROOFS. The state and its environment: single bits of the registers, what another agent's step leaves alone, the
sequencer's next micro-operation, and program memory along every turn. -/

namespace Sys2Proof.Machine

/-! ### Single bits -/

/-- A channel's field of `SW` lies within the byte (R40). -/
theorem chShift_le (P : Params) (ch : Channel) : chShift P ch ≤ 5 := by
  cases ch
  · exact Nat.le_of_lt_succ P.chShift0.isLt
  · exact Nat.le_of_lt_succ P.chShift1.isLt

/-- The number 7 has its three lowest bits set and no other. -/
theorem getLsbD_seven (i : Nat) : (7 : Byte).getLsbD i = decide (i < 3) := by
  by_cases h : i < 8
  · interval_cases i <;> rfl
  · rw [BitVec.getLsbD_of_ge _ _ (by omega), decide_eq_false (by omega)]

/-- The mask has the three bits of the channel's field and no other (R40). -/
theorem getLsbD_chMask (P : Params) (ch : Channel) (i : Nat) :
    (chMask P ch).getLsbD i = decide (chShift P ch ≤ i ∧ i < chShift P ch + 3) := by
  have h5 := chShift_le P ch
  rw [chMask, BitVec.getLsbD_shiftLeft, getLsbD_seven, Bool.eq_iff_iff]
  simp only [Bool.and_eq_true, Bool.not_eq_true', decide_eq_true_eq, decide_eq_false_iff_not]
  omega

/-- What the field insert leaves at every bit: the code's field inside the mask, `SW` as it was outside (R131). -/
theorem getLsbD_insertField (P : Params) (ch : Channel) (c : VoltageCode) (sw : Byte) (i : Nat) :
    (insertField P ch c sw).getLsbD i =
      if chShift P ch ≤ i ∧ i < chShift P ch + 3 then (vrField P c).getLsbD (i - chShift P ch) else sw.getLsbD i := by
  have h5 := chShift_le P ch
  simp only [insertField, BitVec.getLsbD_or, BitVec.getLsbD_and, BitVec.getLsbD_not, getLsbD_chMask,
    BitVec.getLsbD_shiftLeft, BitVec.getLsbD_setWidth]
  split
  · next h => simp [h, show i < 8 by omega, show i - chShift P ch < 8 by omega]
  · next h =>
    by_cases h8 : i < 8
    · simp [h, h8]
    · simp [h, h8, BitVec.getLsbD_of_ge sw i (by omega)]

theorem insertField_outside (P : Params) (ch : Channel) (c : VoltageCode) (sw : Byte) :
    insertField P ch c sw &&& ~~~(chMask P ch) = sw &&& ~~~(chMask P ch) := by
  apply BitVec.eq_of_getLsbD_eq
  intro i _
  simp only [BitVec.getLsbD_and, BitVec.getLsbD_not, getLsbD_chMask, getLsbD_insertField]
  split
  · next h => simp [h]
  · rfl

/-- Settles O24: bit by bit, by `getLsbD_insertField`; disjoint fields put the other channel's bits outside the mask. -/
theorem channelFieldsAreIsolated : Obligations.ChannelFieldsAreIsolated := by
  intro P ch c sw
  refine ⟨insertField_outside P ch c sw, fun i hi => ?_, fun hP ch' i hne hi => ?_⟩
  · rw [getLsbD_insertField, if_pos (by omega), Nat.add_sub_cancel_left]
  · obtain ⟨_, hdisj, _⟩ := hP
    have hout : ¬ (chShift P ch ≤ chShift P ch' + i ∧ chShift P ch' + i < chShift P ch + 3) := by
      cases ch <;> cases ch' <;> simp only [chShift, ne_eq, not_true_eq_false] at hne ⊢ <;> omega
    rw [getLsbD_insertField, if_neg hout]

/-- Settles O18: the read sets or clears just this bit (R45, R58). -/
theorem gateBitIsQuiescence : Obligations.GateBitIsQuiescence := by
  intro s other
  by_cases hq : s.wfgPhase = .quiescent
  · simp [readWfgTrig, gate, hq]
  · simp [readWfgTrig, gate, hq]

/-- Settles O32: the packet count has seven bits, and AADJ is shifted past them (R50). -/
theorem isoPktsByteFields : Obligations.IsoPktsByteFields := by
  intro P c sp
  constructor
  · simp [isoPktsByte]
  · apply BitVec.eq_of_getLsbD_eq
    intro i hi
    simp [isoPktsByte, hi, show i < 8 by omega]

/-! ### The environment -/

/-- Settles O20: the interrupt's own guard is the rule's (R56, R281). -/
theorem setupInterruptMarksPending : Obligations.SetupInterruptMarksPending := by
  intro s w
  refine ⟨fun hp hs => if_pos ⟨hp, hs⟩, fun h => if_neg ?_⟩
  rintro ⟨hp, hs⟩
  exact h.elim (· hp) (· hs)

/-- The dispatcher awaits the data stage exactly where it is held for it and none is there (R63). -/
theorem awaitsPayload_iff (s : State) :
    awaitsPayload s = true ↔ (∃ op rest, s.seq = .busy op (.wait .payload :: rest)) ∧ s.ep0 = none := by
  unfold awaitsPayload
  split
  · next op rest hs => simp [hs]
  · next hne => simpa using fun op rest hs => absurd hs (hne op rest)

/-- Settles O19: the data stage is enabled exactly where it is awaited. -/
theorem dataStageOnlyWhileHeld : Obligations.DataStageOnlyWhileHeld := by
  intro s d
  refine ⟨fun op rest hs he => if_pos ((awaitsPayload_iff s).mpr ⟨⟨op, rest, hs⟩, he⟩), fun hs => if_neg ?_,
    fun he => if_neg ?_⟩
  · intro h
    obtain ⟨⟨op, rest, hb⟩, _⟩ := (awaitsPayload_iff s).mp h
    exact hs op rest hb
  · exact fun h => he ((awaitsPayload_iff s).mp h).2

/-- Settles O17: the write's effect on the phase by the register, and the two steps of the generator's own. -/
theorem generatorPhaseTransitions : Obligations.GeneratorPhaseTransitions := by
  refine ⟨fun v s => rfl, fun v s => ?_, fun r v s ht ha => ?_, fun s hs => ?_, fun s hs => ?_, fun s hs => ?_⟩
  · cases hp : s.wfgPhase <;> simp [hp, phaseAfter]
  · cases r with
    | wfgTrig => exact absurd rfl ht
    | wfgAbort => exact absurd rfl ha
    | _ => rfl
  · by_cases hp : s.wfgPhase = .aborting <;> simp [envStep, hs, hp]
  · by_cases hp : s.wfgPhase = .executing <;> simp [envStep, hs, hp]
  · simp [envStep, hs]

/-- Settles O16: each event's one update changes the fields its own rule names (`envStep_cases`). -/
theorem environmentKeepsTheBlocksState : Obligations.EnvironmentKeepsTheBlocksState := by
  intro e s
  rcases envStep_cases e s with h | ⟨w, rfl, _, _, h⟩ | ⟨d, rfl, _, h⟩ | ⟨rfl, _, _, h⟩ | ⟨rfl, _, h⟩ | ⟨rfl, _, h⟩ |
    ⟨_ | _, rfl, _, _, h⟩ | ⟨_ | _, rfl, h⟩ | ⟨sp, rfl, h⟩ | ⟨rfl, h⟩ | ⟨rfl, h⟩ | ⟨rfl, _, h⟩ <;> simp [h]

/-- Settles O21: the change is due, so it is the step (R60, R179). -/
theorem speedChangeTriggersNothing : Obligations.SpeedChangeTriggersNothing := by
  intro s sp l hs hl
  rw [step_ready hs, tick, turn_due hs.1 hl]
  exact congrArg Host.Outcome.next (carryOn_ready hs.2)

/-! ### The sequencer -/

/-- Settles O13: a turn, a step and a command each look at the sticky fault first (R67). -/
theorem faultedBlockHasNoStep : Obligations.FaultedBlockHasNoStep := by
  intro s f hf
  refine ⟨by simp [tick, turn, hf], step_faulted hf, fun i => ?_, stopped_ne_next f⟩
  simp [exec_eq, runRequest, hf]

/-- With nothing due, the machine's turn inside an operation is its next micro-operation. -/
theorem tick_micro {s : State} {op : Op} {m : Micro} {rest : List Micro} (hf : s.fault = none)
    (hs : s.seq = .busy op (m :: rest)) (hq : quiet s.inputs = true) (hc : canMove s = true) :
    tick s = some (microStep op m rest s) := by
  rw [tick_busy hs, turn_thread hf hq hc]
  simp [sequencerStep, hs]

/-- Settles O11: with nothing due the turn is the next micro-operation's, and a held thread with no input is stuck. -/
theorem sequencerExecutesTheNextMicroOperation : Obligations.SequencerExecutesTheNextMicroOperation := by
  intro s op m rest hf hs hq
  refine ⟨?_, ?_, ?_⟩
  · rintro a rfl
    rw [tick_micro hf hs hq (by simp [canMove, hs]), microStep, seqAfter_eq]
  · rintro c rfl hw
    rw [tick_micro hf hs hq (by simp [canMove, hs, hw]), microStep, if_pos hw, seqAfter_eq]
  · rintro c rfl hw hi
    have hc : canMove s = false := by simp [canMove, hs, hw]
    exact ⟨turn_stuck hc hi, (step_busy hf hs).trans (congrArg Host.Outcome.next (run_stuck hc hi))⟩

/-! ### Program memory -/

theorem envStep_pmOk (e : EnvEvent) {s : State} (h : PmOk s) : PmOk (envStep e s) := by
  obtain ⟨hP, _, _, _, _, _, hm, _⟩ := environmentKeepsTheBlocksState e s
  rw [PmOk, hP, hm]
  exact h

theorem microStep_pmOk (op : Op) (m : Micro) (rest : List Micro) {s : State} (h : PmOk s) :
    PmOk (microStep op m rest s) := by
  cases m with
  | act a => exact actEffect_pmOk a (s := closeHazard s) h
  | wait c => simp only [microStep]; split <;> exact h
  | readPayload k => simp only [microStep]; split <;> exact h
  | sampleSpeed a => exact h
  | reply r => cases op <;> exact h
  | raise f => exact h

/-- Taking a request, a suspend or initialization leaves program memory. -/
theorem mainLoopStep_pmOk {s : State} (h : PmOk s) : PmOk (mainLoopStep s) := by
  unfold mainLoopStep
  split <;> exact h

theorem tick_pmOk {s s' : State} (h : PmOk s) (ht : tick s = some s') : PmOk s' := by
  obtain ⟨_, ⟨d, e, l, _, rfl⟩ | ⟨_, _, rfl⟩ | ⟨op, _, rfl⟩ | ⟨op, m, rest, _, _, rfl⟩⟩ := tick_cases ht
  · exact envStep_pmOk e (s := { s with inputs := l }) h
  · exact mainLoopStep_pmOk (s := counted s) h
  · exact h
  · exact microStep_pmOk op m rest (s := counted s) h

/-- Settles O53: every turn keeps it, and steps are runs of turns. -/
theorem programMemoryStaysCanonical : Obligations.ProgramMemoryStaysCanonical :=
  fun _ _ h ht => step_keeps (I := PmOk) (fun _ _ => tick_pmOk) h ht

/-- Settles O54: `State.reset` is a power-on state. -/
theorem programMemoryCanonicalAtReset : Obligations.ProgramMemoryCanonicalAtReset :=
  pmOk_powerOn defaultParams .high

end Sys2Proof.Machine
end

section
/-! PROOFS. Each group of registers and fields is written by its own commands only, whatever comes in between. -/

namespace Sys2Proof.Machine

/-! ### The groups of registers and fields, and what keeps them -/

/-- What the rules give to named commands as one (R35, R53, R140, R178, R215). -/
inductive Group where
  | parameters
  | initialized
  | acquisition
  | entry
  | range (ch : Channel)
  | switches
  | program
  | count
  | starter
  | fifos
  | interface
  | packets
  deriving DecidableEq

/-- The group is in `t` as it was in `s`; for `entry`, Running is not entered between the two. -/
def Kept : Group → State → State → Prop
  | .parameters, s, t => t.params = s.params
  | .initialized, s, t => t.booted = s.booted
  | .acquisition, s, t => t.acq = s.acq
  | .entry, s, t => t.acq = .running → s.acq = .running
  | .range ch, s, t => readVr ch t = readVr ch s
  | .switches, s, t => t.regs.sw = s.regs.sw
  | .program, s, t =>
    t.pm = s.pm ∧ t.pmPtr = s.pmPtr ∧ t.cfg.rateId = s.cfg.rateId ∧ t.cfg.rateKsps = s.cfg.rateKsps ∧
    t.regs.ifconfig = s.regs.ifconfig ∧ t.regs.wfgReadycfg = s.regs.wfgReadycfg ∧ t.regs.wfgCtlcfg = s.regs.wfgCtlcfg
  | .count, s, t => t.cfg.nch = s.cfg.nch
  | .starter, s, t =>
    t.regs.fiforeset = s.regs.fiforeset ∧ t.regs.wfgTrig = s.regs.wfgTrig ∧ t.regs.wfgTcH = s.regs.wfgTcH ∧
    t.regs.wfgTcL = s.regs.wfgTcL
  | .fifos, s, t => t.regs.fifocfgBulk = s.regs.fifocfgBulk ∧ t.regs.fifocfgIso = s.regs.fifocfgIso
  | .interface, s, t =>
    t.cfg.alt = s.cfg.alt ∧ t.regs.epcfgBulk = s.regs.epcfgBulk ∧ t.regs.epcfgIso = s.regs.epcfgIso ∧
    t.regs.eplenBulkH = s.regs.eplenBulkH ∧ t.regs.eplenBulkL = s.regs.eplenBulkL ∧
    t.regs.eplenIsoH = s.regs.eplenIsoH ∧ t.regs.eplenIsoL = s.regs.eplenIsoL
  | .packets, s, t => t.regs.isoPkts = s.regs.isoPkts

/-- The two states agree in everything the thread alone writes (R30): the parameters, the acquisition state, the
configuration, the channel ranges, the registers, program memory with its pointer, and whether initialization has
run. -/
structure SameBlock (s t : State) : Prop where
  params : t.params = s.params := by rfl
  acq : t.acq = s.acq := by rfl
  cfg : t.cfg = s.cfg := by rfl
  vr0 : t.vr0 = s.vr0 := by rfl
  vr1 : t.vr1 = s.vr1 := by rfl
  regs : t.regs = s.regs := by rfl
  pm : t.pm = s.pm := by rfl
  pmPtr : t.pmPtr = s.pmPtr := by rfl
  booted : t.booted = s.booted := by rfl

theorem SameBlock.refl (s : State) : SameBlock s s := {}

theorem SameBlock.trans {s t u : State} (h : SameBlock s t) (h' : SameBlock t u) : SameBlock s u :=
  ⟨h'.params.trans h.params, h'.acq.trans h.acq, h'.cfg.trans h.cfg, h'.vr0.trans h.vr0, h'.vr1.trans h.vr1,
    h'.regs.trans h.regs, h'.pm.trans h.pm, h'.pmPtr.trans h.pmPtr, h'.booted.trans h.booted⟩

theorem counted_sameBlock (s : State) : SameBlock s (counted s) := {}

theorem closeHazard_sameBlock (s : State) : SameBlock s (closeHazard s) := {}

theorem atSeq_sameBlock (q : Seq) (s : State) : SameBlock s (atSeq q s) := {}

theorem raise_sameBlock (f : StickyFault) (s : State) : SameBlock s (raise f s) := {}

theorem reply_sameBlock (op : Op) (r : ReplyKind) (s : State) : SameBlock s (reply op r s) := by
  cases op <;> exact {}

theorem takeRequest_sameBlock (i : Instr) (ops : List Micro) (s : State) : SameBlock s (takeRequest i ops s) :=
  {}

/-- Taking an input off the list is no change of the block. -/
theorem inputs_sameBlock (l : List Input) (s : State) : SameBlock s { s with inputs := l } :=
  {}

theorem envStep_sameBlock (e : EnvEvent) (s : State) : SameBlock s (envStep e s) := by
  obtain ⟨hP, ha, hc, h0, h1, hr, hm, hp, _, hb, _⟩ := environmentKeepsTheBlocksState e s
  exact ⟨hP, ha, hc, h0, h1, hr, hm, hp, hb⟩

theorem Kept.of_same {g : Group} {s t : State} (h : SameBlock s t) : Kept g s t := by
  obtain ⟨hP, ha, hc, h0, h1, hr, hm, hp, hb⟩ := h
  cases g with
  | range ch => cases ch <;> assumption
  | _ => simp [Kept, *]

theorem Kept.refl (g : Group) (s : State) : Kept g s s := .of_same (.refl s)

theorem Kept.trans {g : Group} {s t u : State} (h : Kept g s t) (h' : Kept g t u) : Kept g s u := by
  cases g with
  | entry => exact fun hu => h (h' hu)
  | _ => simp_all [Kept]

/-! ### What a micro-operation writes -/

/-- The groups a register belongs to; the two strobes hold nothing (R44, R51). -/
def regWrites : Reg → List Group
  | .sw => [.switches]
  | .fifocfgBulk => [.fifos]
  | .fifocfgIso => [.fifos]
  | .fiforeset => [.starter]
  | .ifconfig => [.program]
  | .wfgAbort => []
  | .wfgTrig => [.starter]
  | .wfgTcH => [.starter]
  | .wfgTcL => [.starter]
  | .wfgReadycfg => [.program]
  | .wfgCtlcfg => [.program]
  | .epcfgBulk => [.interface]
  | .epcfgIso => [.interface]
  | .eplenBulkH => [.interface]
  | .eplenBulkL => [.interface]
  | .eplenIsoH => [.interface]
  | .eplenIsoL => [.interface]
  | .isoPkts => [.packets]
  | .pktend => []

/-- The groups a plain micro-operation writes. -/
def actWrites : Act → List Group
  | .wr r _ => regWrites r
  | .resetWrite k => regWrites (resetReg k)
  | .sync => []
  | .pmRewind => [.program]
  | .pmWrite _ => [.program]
  | .setAcq .idle => [.acquisition]
  | .setAcq .running => [.acquisition, .entry]
  | .setLed _ _ => []
  | .setVr ch _ => [.range ch]
  | .setNch _ => [.count]
  | .setRateId _ => [.program]
  | .setRateKsps _ => [.program]
  | .setAlt _ => [.interface]
  | .setDefaults => [.program, .count, .interface]
  | .writeIsoPkts => [.packets]
  | .emptyFifos => []
  | .emitAlt => []
  | .suspend => []
  | .resume => []
  | .finishInit => [.initialized]

/-- The groups the setting operation of a payload writes (R242). -/
def payloadWrites : PayloadUse → List Group
  | .voltage ch => [.switches, .range ch]
  | .rate => [.program, .packets]
  | .channelCount => [.fifos, .count, .packets]
  | .startStop => [.starter, .fifos, .acquisition, .entry]

/-- The groups a micro-operation writes, what it expands to included. -/
def microWrites : Micro → List Group
  | .act a => actWrites a
  | .wait _ => []
  | .readPayload k => payloadWrites k
  | .sampleSpeed _ => [.interface, .packets]
  | .reply _ => []
  | .raise _ => []

/-- The groups a command writes (R35, R53, R140, R178, R215). -/
def commandWrites : Instr → List Group
  | .volt0 _ => [.acquisition, .switches, .range .ch0]
  | .volt1 _ => [.acquisition, .switches, .range .ch1]
  | .rate _ => [.acquisition, .program, .packets]
  | .acq _ => [.acquisition, .entry, .starter, .fifos]
  | .nch _ => [.acquisition, .fifos, .count, .packets]
  | .vendorUnknown _ _ => []
  | .vendorIn _ _ => []
  | .setAlt _ => [.acquisition, .interface, .packets]
  | .getAlt _ => []

theorem writeReg_kept {g : Group} {r : Reg} (h : g ∉ regWrites r) (v : Byte) (s : State) :
    Kept g s (writeReg r v s) := by
  cases g with
  | range ch => cases ch <;> rfl
  | parameters => rfl
  | initialized => rfl
  | acquisition => rfl
  | entry => exact id
  | count => rfl
  | _ => cases r <;> simp [regWrites] at h <;> simp [Kept, regsWrite]

theorem setVr_kept {g : Group} {ch : Channel} (h : g ≠ .range ch) (c : VoltageCode) (s : State) :
    Kept g s (setVr ch c s) := by
  cases g with
  | range ch' => cases ch <;> cases ch' <;> simp_all [Kept, readVr]
  | entry => cases ch <;> exact id
  | _ => cases ch <;> simp [Kept]

theorem actEffect_kept {g : Group} {a : Act} (h : g ∉ actWrites a) (s : State) : Kept g s (actEffect a s) := by
  cases a with
  | wr r v => exact writeReg_kept h v s
  | resetWrite k => exact (writeReg_kept h _ s).trans (.of_same {})
  | writeIsoPkts => exact writeReg_kept h _ s
  | pmWrite v =>
    rcases pmWrite_cases v s with ⟨_, hs⟩ | ⟨_, hs⟩ <;> rw [actEffect, hs]
    · cases g <;> simp_all [Kept, actWrites, readVr]
    · exact .of_same (raise_sameBlock _ s)
  | setVr ch c => exact setVr_kept (by simpa [actWrites] using h) c s
  | setAcq a => cases a <;> cases g <;> simp_all [Kept, actWrites, actEffect, readVr]
  | _ => cases g <;> simp_all [Kept, actWrites, actEffect, readVr]

theorem microStep_kept {g : Group} {m : Micro} (h : g ∉ microWrites m) (op : Op) (rest : List Micro) (s : State) :
    Kept g s (microStep op m rest s) := by
  have hclose : Kept g s (closeHazard s) := .of_same (closeHazard_sameBlock s)
  have hgoOn (q : Seq) : Kept g s (atSeq q (closeHazard s)) := hclose.trans (.of_same (atSeq_sameBlock q _))
  cases m with
  | act a =>
    exact (hclose.trans (actEffect_kept h (closeHazard s))).trans
      (.of_same (atSeq_sameBlock (seqAfter op rest) (actEffect a (closeHazard s))))
  | wait c =>
    simp only [microStep]
    split
    · exact hgoOn _
    · exact Kept.refl g s
  | readPayload k =>
    simp only [microStep]
    split
    · exact Kept.refl g s
    · exact hgoOn _
  | sampleSpeed a => exact hgoOn _
  | reply r => exact hclose.trans (.of_same (reply_sameBlock op r (closeHazard s)))
  | raise f => exact hclose.trans (.of_same (raise_sameBlock f (closeHazard s)))

/-! ### What a sequence writes -/

/-- Every micro-operation of the sequence writes within the groups `W`. -/
def WritesWithin (W : List Group) (l : List Micro) : Prop := ∀ m ∈ l, microWrites m ⊆ W

@[simp] theorem writesWithin_nil (W : List Group) : WritesWithin W [] := by simp [WritesWithin]

@[simp] theorem writesWithin_cons (W : List Group) (m : Micro) (l : List Micro) :
    WritesWithin W (m :: l) ↔ microWrites m ⊆ W ∧ WritesWithin W l := by
  simp [WritesWithin]

@[simp] theorem writesWithin_append (W : List Group) (l l' : List Micro) :
    WritesWithin W (l ++ l') ↔ WritesWithin W l ∧ WritesWithin W l' := by
  simp [WritesWithin, or_imp, forall_and]

@[simp] theorem writesWithin_wrSync (W : List Group) (r : Reg) (v : Byte) :
    WritesWithin W (wrSync r v) ↔ regWrites r ⊆ W := by
  simp [wrSync, microWrites, actWrites]

@[simp] theorem writesWithin_resetSync (W : List Group) (k : ResetStep) :
    WritesWithin W (resetSync k) ↔ regWrites (resetReg k) ⊆ W := by
  simp [resetSync, microWrites, actWrites]

theorem writesWithin_recomputeIso (a : Alt) : WritesWithin [.packets] (recomputeIsoOps a) := by
  cases a <;> simp [recomputeIsoOps, microWrites, actWrites]

theorem WritesWithin.mono {W W' : List Group} {l : List Micro} (h : WritesWithin W l) (hW : W ⊆ W') :
    WritesWithin W' l := fun m hm _ hg => hW (h m hm hg)

theorem writesWithin_setVoltage (ch : Channel) (b : Byte) (s : State) :
    WritesWithin [.switches, .range ch] (setVoltageOps ch b s) := by
  unfold setVoltageOps
  split <;> simp [regWrites, microWrites, actWrites]

theorem writesWithin_loadProfile (P : Params) (a : Alt) (p : Profile) :
    WritesWithin [.program, .packets] (loadProfileOps P a p) := by
  have hiso : WritesWithin [.program, .packets] (recomputeIsoOps a) := 
    (writesWithin_recomputeIso a).mono (by simp)
  have hpm : WritesWithin [.program, .packets] ((programImage p).map (fun v => .act (.pmWrite v))) := by
    simp [WritesWithin, microWrites, actWrites, payloadWrites]
  simp [loadProfileOps, hiso, hpm, regWrites, microWrites, actWrites]

theorem writesWithin_setSampleRate (b : Byte) (s : State) :
    WritesWithin [.program, .packets] (setSampleRateOps b s) := by
  unfold setSampleRateOps
  split
  · simp
  · exact writesWithin_loadProfile _ _ _

theorem writesWithin_setChannelCount (b : Byte) (s : State) :
    WritesWithin [.fifos, .count, .packets] (setChannelCountOps b s) := by
  unfold setChannelCountOps
  split
  · simp
  · have hiso := (writesWithin_recomputeIso s.cfg.alt).mono (W' := [.fifos, .count, .packets]) (by simp)
    simp [channelCountOps, hiso, regWrites, microWrites, actWrites]

theorem writesWithin_stop (P : Params) (a : Alt) : WritesWithin [.acquisition] (stopOps P a) := by
  simp [stopOps, regWrites, microWrites, actWrites]

theorem writesWithin_start (P : Params) (c : AcqConfig) :
    WritesWithin [.starter, .fifos, .acquisition, .entry] (startOps P c) := by
  cases h : P.idleGateWait <;>
    simp [startOps, resetFifosOps, h, resetReg, regWrites, microWrites, actWrites]

theorem writesWithin_startStop (b : Byte) (s : State) :
    WritesWithin [.starter, .fifos, .acquisition, .entry] (startStopOps b s) := by
  unfold startStopOps startCommandOps
  split
  · split
    · simp [microWrites]
    · exact writesWithin_start s.params s.cfg
  · exact (writesWithin_stop s.params s.cfg.alt).mono (by simp)

/-- What a payload byte expands to writes what its use is for (R242). -/
theorem writesWithin_payload (k : PayloadUse) (b : Byte) (s : State) :
    WritesWithin (payloadWrites k) (payloadOps k b s) := by
  cases k with
  | voltage ch => exact writesWithin_setVoltage ch b s
  | rate => exact writesWithin_setSampleRate b s
  | channelCount => exact writesWithin_setChannelCount b s
  | startStop => exact writesWithin_startStop b s

theorem writesWithin_endpoint (P : Params) (sp : Speed) (a : Alt) :
    WritesWithin [.interface, .packets] (endpointOps P sp a) := by
  cases a <;> simp [endpointOps, recomputeIsoOps, regWrites, microWrites, actWrites]

theorem writesWithin_prologue (s : State) : WritesWithin [.acquisition] (prologueOps s) := by
  have hstop := writesWithin_stop s.params s.cfg.alt
  unfold prologueOps
  split <;> simp [hstop, microWrites, actWrites]

theorem writesWithin_configCommand (k : PayloadUse) (s : State) :
    WritesWithin (.acquisition :: payloadWrites k) (configCommandOps k s) := by
  have hpro := (writesWithin_prologue s).mono (W' := .acquisition :: payloadWrites k) (by simp)
  simp [configCommandOps, hpro, microWrites]

/-- A command's sequence writes its own groups (R35, R53, R140, R178, R215). -/
theorem writesWithin_dispatch (i : Instr) (s : State) : WritesWithin (commandWrites i) (dispatchOps i s) := by
  cases i with
  | volt0 _ => exact writesWithin_configCommand (.voltage .ch0) s
  | volt1 _ => exact writesWithin_configCommand (.voltage .ch1) s
  | rate _ => exact writesWithin_configCommand .rate s
  | nch _ => exact writesWithin_configCommand .channelCount s
  | acq a => simp [dispatchOps, acqOps, microWrites, payloadWrites, commandWrites]
  | vendorUnknown r a => simp [dispatchOps, vendorUnknownOps, microWrites]
  | vendorIn r a => simp [dispatchOps, vendorInOps, microWrites]
  | getAlt a => simp [dispatchOps, getAltOps, microWrites, actWrites]
  | setAlt a =>
    have hpro := (writesWithin_prologue s).mono (W' := [.acquisition, .interface, .packets]) (by simp)
    simp only [dispatchOps, setAltOps]
    split
    · simp [microWrites]
    · simp [selectInterfaceOps, hpro, microWrites, actWrites, commandWrites]

/-! ### Along every interleaving -/

/-- The sequence the sequencer still has to run. -/
def opsLeft (s : State) : List Micro :=
  match s.seq with
  | .ready => []
  | .busy _ l => l

theorem opsLeft_busy {s : State} {op : Op} {l : List Micro} (h : s.seq = .busy op l) : opsLeft s = l := by
  simp [opsLeft, h]

theorem writesWithin_seqAfter {W : List Group} {s : State} {op : Op} {l : List Micro} (h : WritesWithin W l)
    (hs : s.seq = seqAfter op l) : WritesWithin W (opsLeft s) := by
  cases l with
  | nil => simp [opsLeft, hs]
  | cons m l => rw [opsLeft_busy hs]; exact h

theorem opsLeft_ready {s : State} (h : s.seq = .ready) : opsLeft s = [] := by
  simp [opsLeft, h]

/-- No micro-operation adds a group to those the rest of the sequence writes. -/
theorem microStep_writesWithin {W : List Group} {op : Op} {m : Micro} {rest : List Micro} {s : State}
    (hs : s.seq = .busy op (m :: rest)) (h : WritesWithin W (m :: rest)) :
    WritesWithin W (opsLeft (microStep op m rest s)) := by
  obtain ⟨hm, hrest⟩ := (writesWithin_cons W m rest).mp h
  cases m with
  | act a => exact writesWithin_seqAfter hrest rfl
  | wait c =>
    simp only [microStep]
    split
    · exact writesWithin_seqAfter hrest rfl
    · rwa [opsLeft_busy hs]
  | readPayload k =>
    simp only [microStep]
    split
    · rwa [opsLeft_busy hs]
    · next d _ =>
      have hpay := (writesWithin_payload k d.first s).mono hm
      exact writesWithin_seqAfter ((writesWithin_append ..).mpr ⟨hpay, hrest⟩) rfl
  | sampleSpeed a =>
    have hend := (writesWithin_endpoint s.params s.speed a).mono hm
    exact writesWithin_seqAfter ((writesWithin_append ..).mpr ⟨hend, hrest⟩) rfl
  | reply r => cases op <;> simp [microStep, reply, opsLeft]
  | raise f => simp [microStep, opsLeft]

/-- The group is as it was in `s`, and what is left to do writes within `W`. -/
def KeptWithin (g : Group) (W : List Group) (s t : State) : Prop := Kept g s t ∧ WritesWithin W (opsLeft t)

/-- Another agent's step leaves the operation in progress, or, as a lock-up, drops it (R195). -/
theorem envStep_seq (e : EnvEvent) (s : State) : (envStep e s).seq = s.seq ∨ (envStep e s).seq = .ready := by
  by_cases he : e = .lockup
  · subst he
    simp only [envStep]
    split
    · exact .inr rfl
    · exact .inl rfl
  · obtain ⟨_, _, _, _, _, _, _, _, _, _, _, _, hseq, _⟩ := environmentKeepsTheBlocksState e s
    exact .inl (hseq he).1

theorem turn_keptWithin {g : Group} {W : List Group} (hg : g ∉ W) {s t u : State} (h : KeptWithin g W s t)
    (ht : turn sequencerStep t = some u) : KeptWithin g W s u := by
  obtain ⟨hk, hw⟩ := h
  obtain ⟨_, ⟨d, e, l, _, rfl⟩ | ⟨_, rfl⟩⟩ := turn_cases ht
  · refine ⟨hk.trans (.of_same ((inputs_sameBlock l t).trans (envStep_sameBlock e _))), ?_⟩
    rcases envStep_seq e { t with inputs := l } with hs | hs
    · simpa [opsLeft, hs] using hw
    · simp [opsLeft_ready hs]
  · have hc : Kept g s (counted t) := hk.trans (.of_same (counted_sameBlock t))
    unfold sequencerStep
    split
    · exact ⟨hc, hw⟩
    · exact ⟨hc.trans (.of_same (atSeq_sameBlock .ready (counted t))), by simp [opsLeft]⟩
    · next op m rest hs =>
      rw [opsLeft_busy (show t.seq = .busy op (m :: rest) from hs)] at hw
      have hm : g ∉ microWrites m := fun hgm => hg (hw m List.mem_cons_self hgm)
      exact ⟨hc.trans (microStep_kept hm op rest (counted t)), microStep_writesWithin hs hw⟩

/-- A command keeps every group that is none of its own, whatever comes meanwhile. -/
theorem exec_kept {i : Instr} {s t : State} (h : exec i s = .next t) {g : Group} (hg : g ∉ commandWrites i) :
    Kept g s t := by
  rw [exec_eq] at h
  obtain ⟨_, _, rfl⟩ := runRequest_next h
  have hstart : KeptWithin g (commandWrites i) s (takeRequest i (dispatchOps i s) (counted s)) :=
    ⟨.of_same ((counted_sameBlock s).trans (takeRequest_sameBlock i _ (counted s))), writesWithin_dispatch i s⟩
  exact (run_keeps (fun _ _ => turn_keptWithin hg) _ hstart).1

/-- Settles O48: each clause is one group, and no other command's sequence writes it. -/
theorem onlyTheNamedCommandsWrite : Obligations.OnlyTheNamedCommandsWrite := by
  intro i s t h
  have hkept {g : Group} (hg : g ∉ commandWrites i) : Kept g s t := exec_kept h hg
  refine ⟨hkept (g := .parameters) ?_, hkept (g := .initialized) ?_, fun hi => hkept (g := .range .ch0) ?_,
    fun hi => hkept (g := .range .ch1) ?_, fun hi => hkept (g := .switches) ?_, fun hi => hkept (g := .program) ?_,
    fun hi => hkept (g := .count) ?_, fun hi => hkept (g := .starter) ?_, fun hi => hkept (g := .fifos) ?_,
    fun hi => hkept (g := .interface) ?_, fun hi => hkept (g := .packets) ?_⟩ <;>
    cases i <;> simp_all [commandWrites]

/-- Settles O49: no command but ACQ enters Running, and the three kinds write no group at all. -/
theorem runningIsEnteredByAcqOnly : Obligations.RunningIsEnteredByAcqOnly := by
  intro i s t h
  refine ⟨fun hrun => ?_, fun hi => ?_⟩
  · cases i with
    | acq a => exact .inr ⟨a, rfl⟩
    | _ => exact .inl (exec_kept h (g := .entry) (by simp [commandWrites]) hrun)
  · obtain ⟨r, a, rfl | rfl⟩ | ⟨a, rfl⟩ := hi <;> exact exec_kept h (g := .acquisition) (by simp [commandWrites])

end Sys2Proof.Machine
end

section
/-! PROOFS. The invariant of the configured block. -/

namespace Sys2Proof.Machine

/-! ### The parts of an applied configuration, and which operation brings each about -/

/-- The rate is a profile's, loaded, and the generator's control state is clear (R43, R156). -/
def RateLoaded (s : State) : Prop :=
  (∃ p, lookupProfile s.params s.cfg.rateId = some p ∧ p.rateKsps = s.cfg.rateKsps ∧ s.regs.ifconfig = p.ifcfg ∧
    ∀ i, i < 120 → Memory.read i s.pm = (programImage p)[i]?) ∧
  s.regs.wfgReadycfg = 0 ∧ s.regs.wfgCtlcfg = 0

/-- Both FIFOs are set for the channel count (R41). -/
def FifosSet (s : State) : Prop :=
  s.regs.fifocfgBulk = fifocfg s.params s.cfg.nch ∧ s.regs.fifocfgIso = fifocfg s.params s.cfg.nch

/-- The endpoint of the setting is enabled, the other is off, and the active lengths are those of some link speed
(R47 to R49). -/
def InterfaceSet (s : State) : Prop :=
  (match s.cfg.alt with
    | .bulk => s.regs.epcfgBulk = s.params.epcfgBulkOn ∧ s.regs.epcfgIso = s.params.epcfgOff
    | .iso => s.regs.epcfgBulk = s.params.epcfgOff ∧ s.regs.epcfgIso = s.params.epcfgIsoOn) ∧
  ∃ sp, match s.cfg.alt with
    | .bulk =>
      s.regs.eplenBulkH = hiByte (pktLen s.params sp .bulk) ∧ s.regs.eplenBulkL = loByte (pktLen s.params sp .bulk)
    | .iso =>
      s.regs.eplenIsoH = hiByte (pktLen s.params sp .iso) ∧ s.regs.eplenIsoL = loByte (pktLen s.params sp .iso)

/-- Under setting 1 the packet-count register holds AADJ and a packet count (R176). -/
def PacketsSet (s : State) : Prop := s.cfg.alt = .iso → ∃ sp, s.regs.isoPkts = isoPktsByte s.params s.cfg sp

theorem configApplied_iff (s : State) :
    ConfigApplied s ↔ RateLoaded s ∧ FifosSet s ∧ InterfaceSet s ∧ PacketsSet s := by
  constructor
  · rintro ⟨hrate, hctl, hfifos, hends, hlens, hpkts⟩
    exact ⟨⟨hrate, hctl⟩, hfifos, ⟨hends, hlens⟩, hpkts⟩
  · rintro ⟨⟨hrate, hctl⟩, hfifos, ⟨hends, hlens⟩, hpkts⟩
    exact ⟨hrate, hctl, hfifos, hends, hlens, hpkts⟩

/-- The configuration is applied or not by the parameters, the configuration, the registers and program memory alone. -/
theorem ConfigApplied.congr {s t : State} (h : ConfigApplied s) (hP : t.params = s.params) (hc : t.cfg = s.cfg)
    (hr : t.regs = s.regs) (hm : t.pm = s.pm) : ConfigApplied t := by
  rw [configApplied_iff] at h ⊢
  simpa only [RateLoaded, FifosSet, InterfaceSet, PacketsSet, hP, hc, hr, hm] using h

theorem rateLoaded_afterRecomputeIso {s : State} (h : RateLoaded s) : RateLoaded (afterRecomputeIso s) := by
  unfold afterRecomputeIso
  split <;> exact h

theorem fifosSet_afterRecomputeIso {s : State} (h : FifosSet s) : FifosSet (afterRecomputeIso s) := by
  unfold afterRecomputeIso
  split <;> exact h

theorem interfaceSet_afterRecomputeIso {s : State} (h : InterfaceSet s) : InterfaceSet (afterRecomputeIso s) := by
  unfold afterRecomputeIso
  split <;> exact h

/-- The recomputation brings about its own part, at the link speed it reads (R175). -/
theorem packetsSet_afterRecomputeIso (s : State) : PacketsSet (afterRecomputeIso s) := by
  unfold afterRecomputeIso
  split
  · next ha => exact fun hiso => absurd (hiso.symm.trans ha) (by decide)
  · exact fun _ => ⟨s.speed, rfl⟩

/-- The hardware and the configuration set for `n` channels (R136). -/
def withCount (n : ChannelCount) (s : State) : State :=
  { s with
    regs := { s.regs with fifocfgBulk := fifocfg s.params n, fifocfgIso := fifocfg s.params n }
    cfg := { s.cfg with nch := n } }

/-- The hardware and the configuration set for a profile (R153). -/
def withProfile (p : Profile) (s : State) : State :=
  { s with
    regs := { s.regs with ifconfig := p.ifcfg, wfgReadycfg := 0, wfgCtlcfg := 0 }
    pm := writeBytes 0 (programImage p) s.pm
    pmPtr := 120
    cfg := { s.cfg with rateId := p.id, rateKsps := p.rateKsps } }

/-- The first two lines of `initialize()`: the default configuration and its channel count (R311). -/
def withDefaults (s : State) : State := withCount .two { s with cfg := defaultConfig }

/-- The endpoints and the configuration set for a setting, with the lengths of a link speed (R171). -/
def withInterface (a : Alt) (sp : Speed) (s : State) : State :=
  match a with
  | .bulk =>
    { s with
      cfg := { s.cfg with alt := .bulk }
      regs := { s.regs with
        epcfgIso := s.params.epcfgOff
        epcfgBulk := s.params.epcfgBulkOn
        eplenBulkH := hiByte (pktLen s.params sp .bulk)
        eplenBulkL := loByte (pktLen s.params sp .bulk) } }
  | .iso =>
    { s with
      cfg := { s.cfg with alt := .iso }
      regs := { s.regs with
        epcfgBulk := s.params.epcfgOff
        epcfgIso := s.params.epcfgIsoOn
        eplenIsoH := hiByte (pktLen s.params sp .iso)
        eplenIsoL := loByte (pktLen s.params sp .iso) } }

/-- `recomputeIso()` at the link speed `sp` (R175). -/
def recomputedAt (sp : Speed) (s : State) : State := afterRecomputeIso { s with speed := sp }

theorem fifosSet_withCount (n : ChannelCount) (s : State) : FifosSet (withCount n s) := ⟨rfl, rfl⟩

/-- Program memory has room for an image (R80). -/
theorem progMemBytes_of_ok {P : Params} (hP : P.Ok) : 120 ≤ P.progMemBytes := by
  obtain ⟨_, _, _, _, _, _, _, _, hsize, _⟩ := hP
  exact hsize

/-- The table has the profile initialization loads (R151). -/
theorem lookupProfile_one {P : Params} (hP : P.Ok) : ∃ p, lookupProfile P 1 = some p := by
  obtain ⟨_, _, _, _, _, _, _, _, _, ⟨_, ⟨p, hmem, hid, _⟩, _⟩, _⟩ := hP
  exact Option.isSome_iff_exists.mp (List.find?_isSome.mpr ⟨p, hmem, decide_eq_true hid⟩)

/-- The profile that is found has the identifier that was looked up (R152). -/
theorem lookupProfile_self {P : Params} {id : Byte} {p : Profile} (h : lookupProfile P id = some p) :
    lookupProfile P p.id = some p := by
  have hid : p.id = id := by simpa using List.find?_some h
  rw [hid]
  exact h

/-- A load leaves the profile's image (R153, R156). -/
theorem rateLoaded_withProfile {s : State} {id : Byte} {p : Profile} (h : lookupProfile s.params id = some p) :
    RateLoaded (withProfile p s) := by
  refine ⟨⟨p, lookupProfile_self h, rfl, rfl, fun i hi => ?_⟩, rfl, rfl⟩
  show Memory.read i (writeBytes 0 (programImage p) s.pm) = _
  rw [read_writeBytes, if_pos (by rw [programImage_length]; omega), Nat.sub_zero]

theorem interfaceSet_withInterface (a : Alt) (sp : Speed) (s : State) : InterfaceSet (withInterface a sp s) := by
  cases a <;> exact ⟨⟨rfl, rfl⟩, sp, rfl, rfl⟩

theorem rateLoaded_withInterface {s : State} (h : RateLoaded s) (a : Alt) (sp : Speed) :
    RateLoaded (withInterface a sp s) := by
  cases a <;> exact h

theorem fifosSet_withInterface {s : State} (h : FifosSet s) (a : Alt) (sp : Speed) :
    FifosSet (withInterface a sp s) := by
  cases a <;> exact h

/-- With the other parts there, the recomputation completes the configuration. -/
theorem configApplied_recomputedAt {s : State} (hr : RateLoaded s) (hf : FifosSet s) (hi : InterfaceSet s)
    (sp : Speed) : ConfigApplied (recomputedAt sp s) :=
  (configApplied_iff _).mpr ⟨rateLoaded_afterRecomputeIso hr, fifosSet_afterRecomputeIso hf,
    interfaceSet_afterRecomputeIso hi, packetsSet_afterRecomputeIso _⟩

/-- Another channel count is applied (R136). -/
theorem configApplied_withCount {s : State} (h : ConfigApplied s) (n : ChannelCount) (sp : Speed) :
    ConfigApplied (recomputedAt sp (withCount n s)) := by
  obtain ⟨hr, _, hi, _⟩ := (configApplied_iff s).mp h
  exact configApplied_recomputedAt (s := withCount n s) hr (fifosSet_withCount n s) hi sp

/-- Another profile is applied (R153). -/
theorem configApplied_withProfile {s : State} (h : ConfigApplied s) {id : Byte} {p : Profile}
    (hp : lookupProfile s.params id = some p) (sp : Speed) : ConfigApplied (recomputedAt sp (withProfile p s)) := by
  obtain ⟨_, hf, hi, _⟩ := (configApplied_iff s).mp h
  exact configApplied_recomputedAt (rateLoaded_withProfile hp) hf hi sp

/-- Another setting is applied, whatever the two link speeds read (R171, R175). -/
theorem configApplied_withInterface {s : State} (hr : RateLoaded s) (hf : FifosSet s) (a : Alt) (sp sp' : Speed) :
    ConfigApplied (recomputedAt sp' (withInterface a sp s)) :=
  configApplied_recomputedAt (rateLoaded_withInterface hr a sp) (fifosSet_withInterface hf a sp)
    (interfaceSet_withInterface a sp s) sp'

/-- A start sets both FIFOs again and leaves the rest of the configuration (R191, R212). -/
theorem configApplied_afterStart {s : State} (h : ConfigApplied s) : ConfigApplied (afterStart s) := by
  obtain ⟨hr, _, hi, hp⟩ := (configApplied_iff s).mp h
  exact (configApplied_iff _).mpr ⟨hr, ⟨rfl, rfl⟩, hi, hp⟩

theorem configApplied_afterStop {s : State} (h : ConfigApplied s) : ConfigApplied (afterStop s) :=
  h.congr rfl rfl rfl rfl

/-! ### What one micro-operation does to the sane block -/

/-- The two states agree, besides, in the data stage and the suspended flag: in all that decides where an operation in
progress leads. -/
structure SameRest (s t : State) : Prop extends SameBlock s t where
  ep0 : t.ep0 = s.ep0 := by rfl
  suspended : t.suspended = s.suspended := by rfl

/-- What the micro-operations of the block's own sequences meet: a write through the pointer is within `PM`, a countdown
starts with the configuring indicator and no other, and only an initialized block suspends. -/
def ActOk : Act → State → Prop
  | .pmWrite _, s => s.pmPtr < s.params.progMemBytes
  | .setLed l n, _ => 0 < n ↔ l = .configuring
  | .suspend, s => s.booted = true
  | _, _ => True

theorem ActOk.congr {a : Act} {s t : State} (h : ActOk a s) (hst : SameBlock s t) : ActOk a t := by
  cases a <;> simp_all [ActOk, hst.params, hst.pmPtr, hst.booted]

/-- A plain micro-operation at one link speed does the same to both. -/
theorem actEffect_sameRest {s t : State} (h : SameRest s t) (a : Act) (sp : Speed) :
    SameRest (actEffect a { s with speed := sp }) (actEffect a { t with speed := sp }) := by
  obtain ⟨⟨hP, ha, hc, h0, h1, hr, hm, hp, hb⟩, he, hu⟩ := h
  cases s
  cases t
  subst hP ha hc h0 h1 hr hm hp hb he hu
  cases a with
  | pmWrite v =>
    simp only [actEffect, pmWrite]
    split <;> exact {}
  | setVr ch c => cases ch <;> exact {}
  | _ => exact {}

theorem actEffect_fault {a : Act} {s : State} (h : ActOk a s) : (actEffect a s).fault = s.fault := by
  cases a with
  | pmWrite v => simp [actEffect, pmWrite, show s.pmPtr < s.params.progMemBytes from h]
  | setVr ch c => cases ch <;> rfl
  | _ => rfl

theorem actEffect_indicatorOk {a : Act} {s : State} (h : ActOk a s) (hi : IndicatorOk s) :
    IndicatorOk (actEffect a s) := by
  cases a with
  | setLed l n => exact h
  | pmWrite v =>
    simp only [actEffect, pmWrite]
    split <;> exact hi
  | setVr ch c => cases ch <;> exact hi
  | _ => exact hi

theorem actEffect_booted {a : Act} {s : State} (h : (actEffect a s).booted = false) : s.booted = false := by
  cases a with
  | finishInit => cases h
  | pmWrite v => rcases pmWrite_cases v s with ⟨_, hs⟩ | ⟨_, hs⟩ <;> simpa [actEffect, hs] using h
  | setVr ch c => cases ch <;> exact h
  | _ => exact h

/-- Before initialization nothing suspends the block. -/
theorem actEffect_suspended {a : Act} {s : State} (h : ActOk a s) (hb : s.booted = false) (hu : s.suspended = false) :
    (actEffect a s).suspended = false := by
  cases a with
  | suspend => cases hb.symm.trans h
  | resume => rfl
  | pmWrite v => rcases pmWrite_cases v s with ⟨_, hs⟩ | ⟨_, hs⟩ <;> simpa [actEffect, hs] using hu
  | setVr ch c => cases ch <;> exact hu
  | _ => exact hu

/-! ### A start, cut at the idle gate -/

/-- `start()` after the idle gate (R191, R212). -/
def startTail (P : Params) (c : AcqConfig) : List Micro :=
  resetSync .firstPulse ++ resetSync .disableBulk ++ resetSync .disableIso ++ resetSync .enableBulk
  ++ resetSync .enableIso ++ resetSync .secondPulse ++ resetSync .thirdPulse ++ resetSync .clearLine
  ++ [.act .emptyFifos]
  ++ wrSync .wfgTcH (hiByte P.tcStart)
  ++ wrSync .wfgTcL (loByte P.tcStart)
  ++ wrSync .wfgTrig (trigCode P c.alt)
  ++ [.act (.setLed .streaming 0), .act (.setAcq .running)]

theorem startOps_eq (P : Params) (c : AcqConfig) :
    startOps P c = resetSync .abort ++ (if P.idleGateWait then [.wait .gate] else []) ++ startTail P c := by
  simp [startOps, resetFifosOps, startTail]

/-- With the wait, a start is held after its abort (R191). -/
theorem startOps_drop {P : Params} (h : P.idleGateWait = true) (c : AcqConfig) :
    (startOps P c).drop 2 = .wait .gate :: startTail P c := by
  simp [startOps_eq, resetSync, h]

/-! ### Sequences that lead back to rest -/

/-- The block is `Ready` with no data stage and not suspended, and once initialized it is configured (R33, R63,
R214). -/
structure AtRest (s : State) : Prop where
  ep0 : s.ep0 = none
  awake : s.suspended = false
  applied : s.booted = true → ConfigApplied s

theorem AtRest.congr {s t : State} (h : AtRest s) (hst : SameRest s t) : AtRest t :=
  ⟨hst.ep0.trans h.ep0, hst.suspended.trans h.awake,
    fun hb => (h.applied (hst.booted.symm.trans hb)).congr hst.params hst.cfg hst.regs hst.pm⟩

/-- Whatever the environment does meanwhile, the rest `l` of the operation `op`, run from `s`, leads where a step may
leave the block: every hold is one R33 and R91 name, with the configuration applied there and at the end. Every link
speed is allowed for at every micro-operation, and every data stage at the wait for it. -/
inductive LeadsToRest : Op → List Micro → State → Prop
  | done {op : Op} {s : State} (h : AtRest s) : LeadsToRest op [] s
  | act {op : Op} {a : Act} {l : List Micro} {s : State} (hok : ActOk a s)
      (hnext : ∀ sp, LeadsToRest op l (actEffect a { s with speed := sp })) : LeadsToRest op (.act a :: l) s
  | holdPayload {w : Word24} {k : PayloadUse} {s : State} (hboot : s.booted = true) (happ : ConfigApplied s)
      (hsus : s.suspended = false)
      (hnext : ∀ d, LeadsToRest (.dispatch w) [.readPayload k, .reply .handled] { s with ep0 := some d }) :
      LeadsToRest (.dispatch w) [.wait .payload, .readPayload k, .reply .handled] s
  | holdGate {w : Word24} {l : List Micro} {s : State} (hboot : s.booted = true) (happ : ConfigApplied s)
      (hsus : s.suspended = false) (hwait : s.params.idleGateWait = true) (hep0 : s.ep0.isSome = true)
      (hl : l = startTail s.params s.cfg ++ [.reply .handled]) (hnext : LeadsToRest (.dispatch w) l s) :
      LeadsToRest (.dispatch w) (.wait .gate :: l) s
  | holdWake {s : State} (hboot : s.booted = true) (happ : ConfigApplied s) (hep0 : s.ep0 = none)
      (hsus : s.suspended = true) (hnext : LeadsToRest .suspendHook [.act .resume] s) :
      LeadsToRest .suspendHook [.wait .wake, .act .resume] s
  | readPayload {op : Op} {k : PayloadUse} {l : List Micro} {s : State} {d : DataStage} (hep0 : s.ep0 = some d)
      (hnext : LeadsToRest (opWithArg op d.first) (payloadOps k d.first s ++ l) s) :
      LeadsToRest op (.readPayload k :: l) s
  | sampleSpeed {op : Op} {a : Alt} {l : List Micro} {s : State}
      (hnext : ∀ sp, LeadsToRest op (endpointOps s.params sp a ++ l) s) : LeadsToRest op (.sampleSpeed a :: l) s
  | reply {op : Op} {r : ReplyKind} {l : List Micro} {s : State} (hsus : s.suspended = false)
      (happ : s.booted = true → ConfigApplied s) : LeadsToRest op (.reply r :: l) s
  | raise {op : Op} {f : StickyFault} {l : List Micro} {s : State} : LeadsToRest op (.raise f :: l) s

/-- What a payload byte expands to reads the block's own state only. -/
theorem payloadOps_congr {s t : State} (h : SameBlock s t) (k : PayloadUse) (b : Byte) :
    payloadOps k b t = payloadOps k b s := by
  cases k <;> simp [payloadOps, setVoltageOps, setSampleRateOps, setChannelCountOps, startStopOps, startCommandOps,
    isRunning, h.params, h.cfg, h.regs, h.acq]

theorem LeadsToRest.congr {op : Op} {l : List Micro} {s t : State} (h : LeadsToRest op l s) (hst : SameRest s t) :
    LeadsToRest op l t := by
  have happlied {s t : State} (hst : SameRest s t) (h : ConfigApplied s) : ConfigApplied t :=
    h.congr hst.params hst.cfg hst.regs hst.pm
  induction h generalizing t with
  | done h => exact .done (h.congr hst)
  | act hok _ ih =>
    exact .act (hok.congr hst.toSameBlock) fun sp => ih sp (actEffect_sameRest hst _ sp)
  | holdPayload hboot happ hsus _ ih =>
    refine .holdPayload (hst.booted.trans hboot) (happlied hst happ) (hst.suspended.trans hsus) fun d => ih d ?_
    exact ⟨⟨hst.params, hst.acq, hst.cfg, hst.vr0, hst.vr1, hst.regs, hst.pm, hst.pmPtr, hst.booted⟩, rfl,
      hst.suspended⟩
  | holdGate hboot happ hsus hwait hep0 hl _ ih =>
    exact .holdGate (hst.booted.trans hboot) (happlied hst happ) (hst.suspended.trans hsus) (by rw [hst.params, hwait])
      (by rw [hst.ep0, hep0]) (by rw [hst.params, hst.cfg, hl]) (ih hst)
  | holdWake hboot happ hep0 hsus _ ih =>
    exact .holdWake (hst.booted.trans hboot) (happlied hst happ) (hst.ep0.trans hep0) (hst.suspended.trans hsus)
      (ih hst)
  | readPayload hep0 _ ih =>
    exact .readPayload (hst.ep0.trans hep0) (by rw [payloadOps_congr hst.toSameBlock]; exact ih hst)
  | sampleSpeed _ ih => exact .sampleSpeed fun sp => by rw [hst.params]; exact ih sp hst
  | reply hsus happ =>
    exact .reply (hst.suspended.trans hsus) fun hb => happlied hst (happ (hst.booted.symm.trans hb))
  | raise => exact .raise

/-! ### The sequences of the block -/

/-- The block with the register file `g`. -/
def withRegs (g : Regs) (s : State) : State := { s with regs := g }

section
variable {op : Op} {l : List Micro} {s : State}

/-- A micro-operation that does not read the link speed, up to what the sequence does not look at. -/
theorem leadsToRest_act {a : Act} {t : State} (hok : ActOk a s) (h : LeadsToRest op l t)
    (hst : ∀ sp, SameRest t (actEffect a { s with speed := sp })) : LeadsToRest op (.act a :: l) s :=
  .act hok fun sp => h.congr (hst sp)

theorem leadsToRest_emptyFifos (h : LeadsToRest op l s) : LeadsToRest op (.act .emptyFifos :: l) s :=
  leadsToRest_act trivial h fun _ => {}

theorem leadsToRest_setLed {d : Led} {n : Nat} (hd : 0 < n ↔ d = .configuring) (h : LeadsToRest op l s) :
    LeadsToRest op (.act (.setLed d n) :: l) s :=
  leadsToRest_act hd h fun _ => {}

theorem leadsToRest_setAcq {a : AcqState} (h : LeadsToRest op l { s with acq := a }) :
    LeadsToRest op (.act (.setAcq a) :: l) s :=
  leadsToRest_act trivial h fun _ => {}

theorem leadsToRest_wrSync {r : Reg} {v : Byte} {g : Regs} (h : LeadsToRest op l (withRegs (regsWrite r v g) s)) :
    LeadsToRest op (wrSync r v ++ l) (withRegs g s) :=
  leadsToRest_act (t := withRegs (regsWrite r v g) s) trivial (leadsToRest_act trivial h fun _ => {}) fun _ => {}

theorem leadsToRest_resetSync {k : ResetStep} {g : Regs}
    (h : LeadsToRest op l (withRegs (regsWrite (resetReg k) (resetByte s.params s.cfg.nch k) g) s)) :
    LeadsToRest op (resetSync k ++ l) (withRegs g s) :=
  leadsToRest_act (t := withRegs (regsWrite (resetReg k) (resetByte s.params s.cfg.nch k) g) s) trivial
    (leadsToRest_act trivial h fun _ => {}) fun _ => {}

/-- Bytes through the pointer, with room for all of them (R52, R80). -/
theorem leadsToRest_pmWrites {bytes : List Byte} (hroom : s.pmPtr + bytes.length ≤ s.params.progMemBytes)
    (h : LeadsToRest op l { s with pm := writeBytes s.pmPtr bytes s.pm, pmPtr := s.pmPtr + bytes.length }) :
    LeadsToRest op (bytes.map (fun v => .act (.pmWrite v)) ++ l) s := by
  induction bytes generalizing s with
  | nil => exact h
  | cons v bytes ih =>
    rw [List.length_cons] at hroom
    have hlt : s.pmPtr < s.params.progMemBytes := by omega
    refine leadsToRest_act (t := { s with pm := Memory.write s.pmPtr v s.pm, pmPtr := s.pmPtr + 1 }) hlt (ih ?_ ?_)
      fun sp => ?_
    · show s.pmPtr + 1 + bytes.length ≤ s.params.progMemBytes
      omega
    · simpa only [writeBytes, List.length_cons, Nat.add_assoc, Nat.add_comm 1] using h
    · rw [actEffect, pmWrite, if_pos hlt]
      exact {}

/-- `recomputeIso()` at whatever link speed it reads (R175). -/
theorem leadsToRest_recomputeIso {a : Alt} (ha : s.cfg.alt = a) (h : ∀ sp, LeadsToRest op l (recomputedAt sp s)) :
    LeadsToRest op (recomputeIsoOps a ++ l) s := by
  subst ha
  cases ha : s.cfg.alt with
  | bulk =>
    have hs : recomputedAt s.speed s = s := by simp [recomputedAt, afterRecomputeIso, ha]
    exact hs ▸ h s.speed
  | iso =>
    refine .act trivial fun sp => leadsToRest_act (t := recomputedAt sp s) trivial (h sp) fun _ => ?_
    simp only [recomputedAt, afterRecomputeIso, ha]
    exact {}

/-- `stop()` (R210). -/
theorem leadsToRest_stop {a : Alt} (h : LeadsToRest op l (afterStop s)) :
    LeadsToRest op (stopOps s.params a ++ l) s := by
  simp only [stopOps, List.append_assoc]
  change LeadsToRest op _ (withRegs s.regs s)
  exact leadsToRest_wrSync (leadsToRest_wrSync (leadsToRest_act trivial h fun _ => {}))

/-- `prologue()` (R243): the countdown it starts is positive. -/
theorem leadsToRest_prologue (hP : s.params.Ok) (h : LeadsToRest op l (afterStop s)) :
    LeadsToRest op (prologueOps s ++ l) s := by
  obtain ⟨_, _, _, _, _, _, _, _, _, _, _, _, _, _, _, hticks, _⟩ := hP
  have hled : ActOk (.setLed .configuring s.params.configLedTicks) (afterStop s) := ⟨fun _ => rfl, fun _ => hticks⟩
  simp only [prologueOps, List.append_assoc]
  refine leadsToRest_stop ?_
  split
  · exact leadsToRest_act hled h fun _ => {}
  · exact h

/-- `setChannelCount(n)` for an accepted count (R136). -/
theorem leadsToRest_channelCount {a : Alt} (ha : s.cfg.alt = a) {n : ChannelCount}
    (h : ∀ sp, LeadsToRest op l (recomputedAt sp (withCount n s))) :
    LeadsToRest op (channelCountOps s.params a n ++ l) s := by
  simp only [channelCountOps, List.append_assoc]
  change LeadsToRest op _ (withRegs s.regs s)
  exact leadsToRest_wrSync (leadsToRest_wrSync (leadsToRest_act (t := withCount n s) trivial
    (leadsToRest_recomputeIso ha h) fun _ => {}))

/-- `setSampleRate` for the profile found (R153). -/
theorem leadsToRest_loadProfile {a : Alt} (ha : s.cfg.alt = a) {p : Profile} (hsize : 120 ≤ s.params.progMemBytes)
    (h : ∀ sp, LeadsToRest op l (recomputedAt sp (withProfile p s))) :
    LeadsToRest op (loadProfileOps s.params a p ++ l) s := by
  simp only [loadProfileOps, List.append_assoc]
  change LeadsToRest op _ (withRegs s.regs s)
  refine leadsToRest_wrSync (leadsToRest_wrSync (leadsToRest_wrSync (leadsToRest_wrSync ?_)))
  refine leadsToRest_act (t := { withProfile p s with pm := s.pm, pmPtr := 0, cfg := s.cfg }) trivial ?_ fun _ => {}
  refine leadsToRest_pmWrites ?_ ?_
  · rw [programImage_length]
    exact hsize
  · rw [programImage_length]
    refine leadsToRest_act (t := { withProfile p s with cfg := { s.cfg with rateId := p.id } }) trivial ?_ fun _ => {}
    exact leadsToRest_act (t := withProfile p s) trivial (leadsToRest_recomputeIso ha h) fun _ => {}

/-- `selectInterface(alt)`: the lengths are those of the link speed it samples, the packet count that of the one it
reads when it comes there (R171, R175). -/
theorem leadsToRest_selectInterface {a : Alt}
    (h : ∀ sp sp', LeadsToRest op l (recomputedAt sp' (withInterface a sp s))) :
    LeadsToRest op (selectInterfaceOps a ++ l) s := by
  refine leadsToRest_act (t := withRegs s.regs { s with cfg := { s.cfg with alt := a } }) trivial
    (.sampleSpeed fun sp => ?_) fun _ => {}
  cases a with
  | bulk =>
    simp only [endpointOps, List.append_assoc]
    exact leadsToRest_wrSync (leadsToRest_wrSync (leadsToRest_wrSync (leadsToRest_wrSync ((h sp sp).congr {}))))
  | iso =>
    simp only [endpointOps, List.append_assoc]
    refine leadsToRest_wrSync (leadsToRest_wrSync (leadsToRest_wrSync (leadsToRest_wrSync ?_)))
    exact leadsToRest_recomputeIso rfl fun sp' => (h sp sp').congr {}

/-- `start()` after the idle gate (R191, R212). -/
theorem leadsToRest_startTail (h : LeadsToRest op l (afterStart s)) :
    LeadsToRest op (startTail s.params s.cfg ++ l) s := by
  simp only [startTail, List.append_assoc]
  change LeadsToRest op _ (withRegs s.regs s)
  refine leadsToRest_resetSync (leadsToRest_resetSync (leadsToRest_resetSync (leadsToRest_resetSync
    (leadsToRest_resetSync (leadsToRest_resetSync (leadsToRest_resetSync (leadsToRest_resetSync ?_)))))))
  refine leadsToRest_emptyFifos (leadsToRest_wrSync (leadsToRest_wrSync (leadsToRest_wrSync ?_)))
  refine leadsToRest_setLed (by decide) (leadsToRest_setAcq ?_)
  simp only [regsWrite, resetReg, resetByte]
  exact h.congr {}

/-! ### The sequences of the commands -/

/-- What a command needs of the block it is taken in: it is initialized, not suspended, and configured. -/
structure Configured (s : State) : Prop where
  params : s.params.Ok
  booted : s.booted = true
  awake : s.suspended = false
  applied : ConfigApplied s

theorem Configured.congr {s t : State} (h : Configured s) (hP : t.params = s.params) (hb : t.booted = s.booted)
    (hu : t.suspended = s.suspended) (hc : t.cfg = s.cfg) (hr : t.regs = s.regs) (hm : t.pm = s.pm) : Configured t :=
  ⟨hP ▸ h.params, hb.trans h.booted, hu.trans h.awake, h.applied.congr hP hc hr hm⟩

theorem Configured.leadsToRest_reply (h : Configured s) {r : ReplyKind} : LeadsToRest op (.reply r :: l) s :=
  .reply h.awake fun _ => h.applied

/-- The recomputation of a command that was taken in a configured block. -/
theorem Configured.recomputedAt_reply (h : Configured s) {t : State} (hu : t.suspended = s.suspended) {sp : Speed}
    (ha : ConfigApplied (recomputedAt sp t)) {r : ReplyKind} :
    LeadsToRest op (.reply r :: l) (recomputedAt sp t) := by
  have hsus : (recomputedAt sp t).suspended = t.suspended := by
    simp only [recomputedAt, afterRecomputeIso]
    split <;> rfl
  exact .reply (hsus.trans (hu.trans h.awake)) fun _ => ha

/-- `setVoltage` touches nothing the configuration rests on (R131, R134). -/
theorem leadsToRest_setVoltage (h : Configured s) (ch : Channel) (b : Byte) :
    LeadsToRest op (setVoltageOps ch b s ++ [.reply .handled]) s := by
  unfold setVoltageOps
  split
  · exact h.leadsToRest_reply
  · next c _ =>
    change LeadsToRest op (wrSync _ _ ++ [.act (.setVr ch c), .reply .handled]) (withRegs s.regs s)
    refine leadsToRest_wrSync (.act trivial fun sp => .reply ?_ fun _ => ?_)
    · cases ch <;> exact h.awake
    · obtain ⟨hr, hf, hi, hp⟩ := (configApplied_iff s).mp h.applied
      cases ch <;> exact (configApplied_iff _).mpr ⟨hr, hf, hi, hp⟩

theorem leadsToRest_setSampleRate (h : Configured s) (b : Byte) :
    LeadsToRest op (setSampleRateOps b s ++ [.reply .handled]) s := by
  unfold setSampleRateOps
  split
  · exact h.leadsToRest_reply
  · next p hp =>
    exact leadsToRest_loadProfile rfl (progMemBytes_of_ok h.params) fun sp =>
      h.recomputedAt_reply (t := withProfile p s) rfl (configApplied_withProfile h.applied hp sp)

theorem leadsToRest_setChannelCount (h : Configured s) (b : Byte) :
    LeadsToRest op (setChannelCountOps b s ++ [.reply .handled]) s := by
  unfold setChannelCountOps
  split
  · exact h.leadsToRest_reply
  · next n _ =>
    exact leadsToRest_channelCount rfl fun sp =>
      h.recomputedAt_reply (t := withCount n s) rfl (configApplied_withCount h.applied n sp)

theorem Configured.leadsToRest_startTail (h : Configured s) :
    LeadsToRest op (startTail s.params s.cfg ++ [.reply .handled]) s :=
  Machine.leadsToRest_startTail (.reply h.awake fun _ => configApplied_afterStart h.applied)

/-- A start held at the idle gate (R191). -/
theorem leadsToRest_atGate (h : Configured s) (hwait : s.params.idleGateWait = true) (he : s.ep0.isSome = true)
    {w : Word24} : LeadsToRest (.dispatch w) (.wait .gate :: (startTail s.params s.cfg ++ [.reply .handled])) s :=
  .holdGate h.booted h.applied h.awake hwait he rfl h.leadsToRest_startTail

/-- `start()` (R212). -/
theorem leadsToRest_start (h : Configured s) (he : s.ep0.isSome = true) {w : Word24} :
    LeadsToRest (.dispatch w) (startOps s.params s.cfg ++ [.reply .handled]) s := by
  simp only [startOps_eq, List.append_assoc]
  change LeadsToRest _ _ (withRegs s.regs s)
  refine leadsToRest_resetSync ?_
  change LeadsToRest _ _ s
  split
  · next hwait => exact leadsToRest_atGate h hwait he
  · exact h.leadsToRest_startTail

theorem leadsToRest_startStop (h : Configured s) (he : s.ep0.isSome = true) (b : Byte) {w : Word24} :
    LeadsToRest (.dispatch w) (startStopOps b s ++ [.reply .handled]) s := by
  unfold startStopOps startCommandOps
  split
  · split
    · exact .raise
    · exact leadsToRest_start h he
  · exact leadsToRest_stop (.reply h.awake fun _ => configApplied_afterStop h.applied)

theorem leadsToRest_payload (h : Configured s) (he : s.ep0.isSome = true) (k : PayloadUse) (b : Byte) {w : Word24} :
    LeadsToRest (.dispatch w) (payloadOps k b s ++ [.reply .handled]) s := by
  cases k with
  | voltage ch => exact leadsToRest_setVoltage h ch b
  | rate => exact leadsToRest_setSampleRate h b
  | channelCount => exact leadsToRest_setChannelCount h b
  | startStop => exact leadsToRest_startStop h he b

/-- The wait for the data stage, and what its first byte is handed to (R242, R244). -/
theorem leadsToRest_awaitPayload (h : Configured s) (k : PayloadUse) {w : Word24} :
    LeadsToRest (.dispatch w) [.wait .payload, .readPayload k, .reply .handled] s := by
  refine .holdPayload h.booted h.applied h.awake fun d => .readPayload rfl ?_
  have hd : Configured { s with ep0 := some d } := h.congr rfl rfl rfl rfl rfl rfl
  exact leadsToRest_payload hd rfl k d.first

theorem leadsToRest_configCommand (h : Configured s) (k : PayloadUse) {w : Word24} :
    LeadsToRest (.dispatch w) (configCommandOps k s) s := by
  refine leadsToRest_prologue h.params (leadsToRest_awaitPayload ?_ k)
  exact h.congr rfl rfl rfl rfl rfl rfl

theorem leadsToRest_setAlt (h : Configured s) (a : Byte) {w : Word24} :
    LeadsToRest (.dispatch w) (setAltOps a s) s := by
  unfold setAltOps
  split
  · exact .raise
  · next alt _ =>
    have hstop : Configured (afterStop s) := h.congr rfl rfl rfl rfl rfl rfl
    obtain ⟨hr, hf, _⟩ := (configApplied_iff _).mp hstop.applied
    rw [List.append_assoc]
    refine leadsToRest_prologue h.params (leadsToRest_selectInterface fun sp sp' => ?_)
    exact hstop.recomputedAt_reply (t := withInterface alt sp (afterStop s)) (by cases alt <;> rfl)
      (configApplied_withInterface hr hf alt sp sp')

/-- Every command's sequence leads back to rest. -/
theorem leadsToRest_dispatch (h : Configured s) (i : Instr) {w : Word24} :
    LeadsToRest (.dispatch w) (dispatchOps i s) s := by
  cases i with
  | volt0 _ => exact leadsToRest_configCommand h (.voltage .ch0)
  | volt1 _ => exact leadsToRest_configCommand h (.voltage .ch1)
  | rate _ => exact leadsToRest_configCommand h .rate
  | nch _ => exact leadsToRest_configCommand h .channelCount
  | acq _ => exact leadsToRest_awaitPayload h .startStop
  | vendorUnknown _ _ => exact h.leadsToRest_reply
  | vendorIn _ _ => exact .raise
  | setAlt a => exact leadsToRest_setAlt h a
  | getAlt _ => exact leadsToRest_act trivial h.leadsToRest_reply fun _ => {}

/-- The suspend hook (R288), before and after it has set its flag. -/
theorem leadsToRest_resume (hb : s.booted = true) (ha : ConfigApplied s) (he : s.ep0 = none) (hu : s.suspended = true) :
    LeadsToRest .suspendHook [.wait .wake, .act .resume] s :=
  .holdWake hb ha he hu (.act trivial fun _ => .done ⟨he, rfl, fun _ => ha.congr rfl rfl rfl rfl⟩)

theorem leadsToRest_suspendHook (h : Configured s) (he : s.ep0 = none) :
    LeadsToRest .suspendHook suspendHookOps s :=
  leadsToRest_act (t := { s with suspended := true }) h.booted
    (leadsToRest_resume h.booted (h.applied.congr rfl rfl rfl rfl) he rfl) fun _ => {}

/-- Initialization (R311): its three calls apply the default configuration. -/
theorem leadsToRest_initialize (hP : s.params.Ok) (he : s.ep0 = none) (hu : s.suspended = false) :
    LeadsToRest .initialization (initializeOps s.params (lookupProfile s.params 1)) s := by
  obtain ⟨p, hp⟩ := lookupProfile_one hP
  have hbulk (t : State) (ht : t.cfg.alt = .bulk) (sp : Speed) : SameRest t (recomputedAt sp t) := by
    simp only [recomputedAt, afterRecomputeIso, ht]
    exact {}
  simp only [initializeOps, hp, List.append_assoc]
  refine leadsToRest_act (t := { s with cfg := defaultConfig }) trivial ?_ fun _ => {}
  refine leadsToRest_channelCount rfl fun sp => LeadsToRest.congr ?_ (hbulk (withDefaults s) rfl sp)
  refine leadsToRest_loadProfile (s := withDefaults s) rfl (progMemBytes_of_ok hP) fun sp =>
    LeadsToRest.congr ?_ (hbulk (withProfile p (withDefaults s)) rfl sp)
  refine leadsToRest_selectInterface fun sp sp' => .act trivial fun _ => .done ⟨he, hu, fun _ => ?_⟩
  refine ConfigApplied.congr (configApplied_withInterface ?_ ?_ .bulk sp sp') rfl rfl rfl rfl
  · exact rateLoaded_withProfile hp
  · exact fifosSet_withCount .two _

end

/-! ### The invariant along every turn -/

/-- Where the sequencer stands, the block leads to rest. -/
def PositionOk : Seq → State → Prop
  | .ready, s => AtRest s
  | .busy op l, s => LeadsToRest op l s

theorem PositionOk.congr {q : Seq} {s t : State} (h : PositionOk q s) (hst : SameRest s t) : PositionOk q t := by
  cases q with
  | ready => exact AtRest.congr h hst
  | busy op l => exact LeadsToRest.congr h hst

theorem positionOk_busy {op : Op} {l : List Micro} {s : State} (hs : s.seq = .busy op l) :
    PositionOk s.seq s ↔ LeadsToRest op l s := by
  rw [hs]
  rfl

theorem positionOk_ready {s : State} (hs : s.seq = .ready) : PositionOk s.seq s ↔ AtRest s := by
  rw [hs]
  rfl

theorem positionOk_seqAfter {op : Op} {l : List Micro} {s : State} (h : LeadsToRest op l s) :
    PositionOk (seqAfter op l) s := by
  cases l with
  | nil => cases h with | done h => exact h
  | cons m l => exact h

/-- What every turn of a sane block keeps, in the middle of an operation too. -/
structure OnTrack (s : State) : Prop where
  params : s.params.Ok
  indicator : IndicatorOk s
  unbooted : s.booted = false → s.ep0 = none ∧ s.suspended = false
  stopped : s.fault ≠ none → s.seq = .ready
  position : s.fault = none → PositionOk s.seq s

theorem OnTrack.congr {s t : State} (h : OnTrack s) (hst : SameRest s t) (hi : IndicatorOk t) (hf : t.fault = s.fault)
    (hq : t.seq = s.seq) : OnTrack t where
  params := hst.params ▸ h.params
  indicator := hi
  unbooted hb := by rw [hst.ep0, hst.suspended]; exact h.unbooted (hst.booted.symm.trans hb)
  stopped hne := hq.trans (h.stopped (hf ▸ hne))
  position hn := hq ▸ (h.position (hf.symm.trans hn)).congr hst

/-- An operation begins, goes on or ends, with nothing changed that it looks at. -/
theorem OnTrack.goOn {s t : State} (h : OnTrack s) (hpos : PositionOk t.seq s) (hst : SameRest s t) (hi : IndicatorOk t)
    (hf : t.fault = none) : OnTrack t where
  params := hst.params ▸ h.params
  indicator := hi
  unbooted hb := by rw [hst.ep0, hst.suspended]; exact h.unbooted (hst.booted.symm.trans hb)
  stopped hne := absurd hf hne
  position _ := hpos.congr hst

theorem OnTrack.raise {s : State} (h : OnTrack s) (f : StickyFault) : OnTrack (raise f s) where
  params := h.params
  indicator := h.indicator
  unbooted := h.unbooted
  stopped _ := rfl
  position hn := by cases hn

theorem counted_sameRest (s : State) : SameRest s (counted s) := ⟨counted_sameBlock s, rfl, rfl⟩

theorem OnTrack.counted {s : State} (h : OnTrack s) : OnTrack (counted s) :=
  h.congr (counted_sameRest s) h.indicator rfl rfl

/-- The data stage arrives only where it is waited for (R63), and leads on from there. -/
theorem OnTrack.dataStage {s : State} (h : OnTrack s) {d : DataStage} (ha : awaitsPayload s = true) :
    OnTrack { s with ep0 := some d } := by
  obtain ⟨⟨op, rest, hs⟩, _⟩ := (awaitsPayload_iff s).mp ha
  have hrun : s.fault = none := by
    by_contra hne
    cases hs.symm.trans (h.stopped hne)
  have hpos : LeadsToRest op (.wait .payload :: rest) s := (positionOk_busy hs).mp (h.position hrun)
  refine ⟨h.params, h.indicator, fun hb => ?_, fun hne => absurd hrun hne, fun _ => ?_⟩
  · cases hpos with
    | holdPayload hboot => cases hboot.symm.trans hb
  · refine (positionOk_busy (s := { s with ep0 := some d }) hs).mpr ?_
    cases hpos with
    | holdPayload hboot happ hsus hnext => exact .holdPayload hboot (happ.congr rfl rfl rfl rfl) hsus hnext

/-- A countdown that ends puts the configuring indicator out (R284). -/
theorem indicatorOk_timerTick {s : State} (h : IndicatorOk s) (hpos : 0 < s.ledcnt) :
    IndicatorOk { s with ledcnt := s.ledcnt - 1, led := if s.ledcnt - 1 = 0 then .off else s.led } := by
  have hled : s.led = .configuring := h.mp hpos
  by_cases hz : s.ledcnt - 1 = 0
  · simp [IndicatorOk, hz]
  · simp [IndicatorOk, hz, hled, Nat.pos_of_ne_zero hz]

theorem OnTrack.envStep {s : State} (h : OnTrack s) (e : EnvEvent) : OnTrack (envStep e s) := by
  cases e with
  | dataStage d =>
    simp only [Machine.envStep]
    split
    · next ha => exact h.dataStage ha
    · exact h
  | timerTick =>
    simp only [Machine.envStep]
    split
    · next hg => exact h.congr {} (indicatorOk_timerTick h.indicator hg.2) rfl rfl
    · exact h
  | lockup =>
    simp only [Machine.envStep]
    split
    · exact h.raise .fifoLockup
    · exact h
  | fifoFill f =>
    simp only [Machine.envStep]
    split
    · cases f <;> exact h.congr {} h.indicator rfl rfl
    · exact h
  | fifoDrain f => cases f <;> exact h.congr {} h.indicator rfl rfl
  | setSpeed sp => exact h.congr {} h.indicator rfl rfl
  | suspend => exact h.congr {} h.indicator rfl rfl
  | wake => exact h.congr {} h.indicator rfl rfl
  | _ =>
    simp only [Machine.envStep]
    split
    · exact h.congr {} h.indicator rfl rfl
    · exact h

/-- A wait whose condition holds is passed. -/
theorem leadsToRest_passed {op : Op} {c : WaitCond} {rest : List Micro} {s : State}
    (h : LeadsToRest op (.wait c :: rest) s) (hw : waitHolds c s = true) : LeadsToRest op rest s := by
  cases h with
  | holdPayload _ _ _ hnext =>
    obtain ⟨d, hd⟩ := Option.isSome_iff_exists.mp hw
    have hs : { s with ep0 := some d } = s := by rw [← hd]
    exact hs ▸ hnext d
  | holdGate _ _ _ _ _ _ hnext => exact hnext
  | holdWake _ _ _ _ hnext => exact hnext

theorem OnTrack.microStep {s : State} (h : OnTrack s) (hf : s.fault = none) {op : Op} {m : Micro} {rest : List Micro}
    (hs : s.seq = .busy op (m :: rest)) : OnTrack (microStep op m rest s) := by
  have hpos : LeadsToRest op (m :: rest) s := (positionOk_busy hs).mp (h.position hf)
  have hsame (q : Seq) : SameRest s (atSeq q (closeHazard s)) := {}
  cases m with
  | act a =>
    cases hpos with
    | act hok hnext =>
      have hok' : ActOk a (closeHazard s) := hok.congr (closeHazard_sameBlock s)
      have hfault : (actEffect a (closeHazard s)).fault = none := (actEffect_fault hok').trans hf
      refine ⟨?_, actEffect_indicatorOk hok' h.indicator, fun hb => ?_, fun hne => absurd hfault hne, fun _ => ?_⟩
      · exact (actEffect_keeps a (closeHazard s)).1 ▸ h.params
      · have hb' : s.booted = false := actEffect_booted (a := a) (s := closeHazard s) hb
        obtain ⟨he, hu⟩ := h.unbooted hb'
        obtain ⟨_, _, _, _, hkeep, _⟩ := actEffect_keeps a (closeHazard s)
        exact ⟨hkeep.trans he, actEffect_suspended hok' hb' hu⟩
      · refine (positionOk_seqAfter (hnext s.speed)).congr ?_
        obtain ⟨⟨hP, ha, hc, h0, h1, hr, hm, hp, hb⟩, he, hu⟩ :=
          actEffect_sameRest (s := s) (t := closeHazard s) {} a s.speed
        exact ⟨⟨hP, ha, hc, h0, h1, hr, hm, hp, hb⟩, he, hu⟩
  | wait c =>
    simp only [Machine.microStep]
    split
    · next hw => exact h.goOn (positionOk_seqAfter (leadsToRest_passed hpos hw)) (hsame _) h.indicator hf
    · exact h
  | readPayload k =>
    cases hpos with
    | readPayload he hnext =>
      simp only [Machine.microStep, he]
      exact h.goOn (positionOk_seqAfter hnext) (hsame _) h.indicator hf
  | sampleSpeed a =>
    cases hpos with
    | sampleSpeed hnext => exact h.goOn (positionOk_seqAfter (hnext s.speed)) (hsame _) h.indicator hf
  | reply r =>
    cases hpos with
    | reply hu ha =>
      have hrest (t : State) (hst : SameRest { s with ep0 := none } t) : AtRest t :=
        AtRest.congr (s := { s with ep0 := none }) ⟨rfl, hu, fun hb => (ha hb).congr rfl rfl rfl rfl⟩ hst
      cases op <;> exact ⟨h.params, h.indicator, fun _ => ⟨rfl, hu⟩, fun _ => rfl, fun _ => hrest _ {}⟩
  | raise f => exact (h.congr {} h.indicator rfl rfl : OnTrack (closeHazard s)).raise f

theorem AtRest.configured {s : State} (h : AtRest s) (hP : s.params.Ok) (hb : s.booted = true) : Configured s :=
  ⟨hP, hb, h.awake, h.applied hb⟩

theorem OnTrack.mainLoopStep {s : State} (h : OnTrack s) (hf : s.fault = none) (hs : s.seq = .ready) :
    OnTrack (mainLoopStep s) := by
  have hrest : AtRest s := (positionOk_ready hs).mp (h.position hf)
  unfold Machine.mainLoopStep
  rcases mainLoopTakes_cases s with ⟨hb, hm⟩ | ⟨hb, w, i, _, _, hm⟩ | ⟨hb, w, _, _, hm⟩ | ⟨hb, _, _, hm⟩ |
    ⟨_, _, _, hm⟩ <;> rw [hm]
  · exact h.goOn (leadsToRest_initialize h.params hrest.ep0 hrest.awake) {} h.indicator hf
  · exact h.goOn (leadsToRest_dispatch (hrest.configured h.params hb) i) {} h.indicator hf
  · exact h.goOn LeadsToRest.raise {} h.indicator hf
  · exact h.goOn (leadsToRest_suspendHook (hrest.configured h.params hb) hrest.ep0) {} h.indicator hf
  · exact h

theorem OnTrack.tick {s s' : State} (h : OnTrack s) (ht : tick s = some s') : OnTrack s' := by
  obtain ⟨hf, ⟨d, e, l, _, rfl⟩ | ⟨hs, _, rfl⟩ | ⟨op, hs, rfl⟩ | ⟨op, m, rest, hs, _, rfl⟩⟩ := tick_cases ht
  · have hl : OnTrack { s with inputs := l } := h.congr ⟨inputs_sameBlock l s, rfl, rfl⟩ h.indicator rfl rfl
    exact hl.envStep e
  · exact h.counted.mainLoopStep hf hs
  · have hdone : LeadsToRest op [] s := (positionOk_busy hs).mp (h.position hf)
    exact h.goOn (positionOk_seqAfter hdone) {} h.indicator hf
  · exact h.counted.microStep hf hs

/-! ### Where a step stops -/

/-- A thread that is not faulted and has no turn cannot move. -/
theorem canMove_of_turn_none {f : State → State} {s : State} (hf : s.fault = none) (ht : turn f s = none) :
    canMove s = false := by
  unfold turn at ht
  rw [hf] at ht
  cases hc : canMove s with
  | false => rfl
  | true => cases hd : dueInput true s.inputs <;> simp [hc, hd] at ht

/-- An operation of no more turns than the fuel ends, or is held. -/
theorem carryOn_ends {s : State} (h : seqCost s.seq ≤ 256) :
    (carryOn s).seq = .ready ∨ turn sequencerStep (carryOn s) = none :=
  run_ends (fuel s) (by simp only [workLeft, fuel]; omega)

/-- What the main loop begins takes no more turns than the fuel. -/
theorem seqCost_mainLoopStep {s : State} (hs : s.seq = .ready) : seqCost (mainLoopStep s).seq ≤ 256 := by
  unfold mainLoopStep
  split
  · have := opsCost_initialize s.params (lookupProfile s.params 1)
    simp only [beginInitialize, seqCost]
    omega
  · next i _ =>
    have := opsCost_dispatch i s
    simp only [takeRequest_seq, seqCost]
    omega
  · simp [seqCost]
  · simp [beginSuspend, suspendHookOps, seqCost, microCost]
  · simp [hs, seqCost]

/-- A step stops where the sequencer is `Ready` or held, if it started at such a place. -/
theorem step_ends {s t : State} (hcost : seqCost s.seq ≤ 256) (h : step s = .next t) :
    t.seq = .ready ∨ turn sequencerStep t = none := by
  cases hf : s.fault with
  | some f => exact absurd ((step_faulted hf).symm.trans h) (stopped_ne_next f t)
  | none =>
    cases hs : s.seq with
    | busy op rest =>
      cases (step_busy hf hs).symm.trans h
      exact carryOn_ends hcost
    | ready =>
      cases (step_ready ⟨hf, hs⟩).symm.trans h
      cases ht : tick s with
      | none => exact .inl hs
      | some s' =>
        refine carryOn_ends ?_
        obtain ⟨_, ⟨d, e, l, _, rfl⟩ | ⟨_, _, rfl⟩ | ⟨op, hb, _⟩ | ⟨op, m, rest, hb, _, _⟩⟩ := tick_cases ht
        · rw [envStep_seq_ready e (s := { s with inputs := l }) hs]
          exact Nat.zero_le _
        · exact seqCost_mainLoopStep (s := counted s) hs
        · cases hs.symm.trans hb
        · cases hs.symm.trans hb

/-- A held sequencer that leads to rest is held where R33 and R91 let it. -/
theorem rests_of_held {s : State} {op : Op} {l : List Micro} (hs : s.seq = .busy op l) (h : LeadsToRest op l s)
    (hc : canMove s = false) : Rests s ∧ s.booted = true ∧ ConfigApplied s := by
  cases h with
  | done => simp [canMove, hs] at hc
  | act => simp [canMove, hs] at hc
  | holdPayload hb ha hu _ =>
    have he : s.ep0 = none := by simpa [canMove, hs, waitHolds] using hc
    exact ⟨.inr (.inl ⟨_, _, hs, he, hu⟩), hb, ha⟩
  | holdGate hb ha hu hwait he hl _ =>
    refine ⟨.inr (.inr (.inl ⟨_, hs.trans (congrArg (Seq.busy _) ?_), hwait, he, hu⟩)), hb, ha⟩
    rw [startOps_drop hwait, hl]
    rfl
  | holdWake hb ha he hu _ => exact ⟨.inr (.inr (.inr ⟨hs, he, hu⟩)), hb, ha⟩
  | readPayload he _ => simp [canMove, hs, he] at hc
  | sampleSpeed => simp [canMove, hs] at hc
  | reply => simp [canMove, hs] at hc
  | raise => simp [canMove, hs] at hc

/-! ### The block's invariant -/

/-- The places the invariant lets a block rest at lead on. -/
theorem positionOk_of_rests {s : State} (hP : s.params.Ok) (hb : s.booted = true) (ha : ConfigApplied s) (h : Rests s) :
    PositionOk s.seq s := by
  rcases h with ⟨hs, he, hu⟩ | ⟨w, k, hs, _, hu⟩ | ⟨w, hs, hwait, he, hu⟩ | ⟨hs, he, hu⟩
  · exact (positionOk_ready hs).mpr ⟨he, hu, fun _ => ha⟩
  · exact (positionOk_busy hs).mpr (leadsToRest_awaitPayload ⟨hP, hb, hu, ha⟩ k)
  · rw [startOps_drop hwait] at hs
    exact (positionOk_busy hs).mpr (leadsToRest_atGate ⟨hP, hb, hu, ha⟩ hwait he)
  · exact (positionOk_busy hs).mpr (leadsToRest_resume hb ha he hu)

theorem BlockInv.onTrack {s : State} (h : BlockInv s) (hf : s.fault = none) : OnTrack s := by
  refine ⟨h.params, h.indicator, fun hb => (h.unbooted hb).2, fun hne => absurd hf hne, fun _ => ?_⟩
  cases hb : s.booted with
  | false =>
    obtain ⟨hs, he, hu⟩ := h.unbooted hb
    exact (positionOk_ready hs).mpr ⟨he, hu, fun hb' => by cases hb.symm.trans hb'⟩
  | true => exact positionOk_of_rests h.params hb (h.applied hb hf) (h.rests hb hf)

/-- No place the invariant lets a block rest at has more turns left than the fuel. -/
theorem seqCost_of_rests {s : State} (h : Rests s) : seqCost s.seq ≤ 256 := by
  rcases h with ⟨hs, _⟩ | ⟨w, k, hs, _⟩ | ⟨w, hs, hwait, _⟩ | ⟨hs, _⟩ <;> rw [hs]
  · exact Nat.zero_le _
  · simp [seqCost, microCost]
  · have hstart := opsCost_start s.params s.cfg
    rw [startOps_drop hwait]
    simp only [startOps_eq, hwait, if_true, opsCost_append, opsCost_cons, opsCost_nil, microCost, seqCost] at hstart ⊢
    omega
  · simp [seqCost, microCost]

theorem BlockInv.seqCost_le {s : State} (h : BlockInv s) (hf : s.fault = none) : seqCost s.seq ≤ 256 := by
  cases hb : s.booted with
  | false => rw [(h.unbooted hb).1]; exact Nat.zero_le _
  | true => exact seqCost_of_rests (h.rests hb hf)

/-- A block on track where a step stops meets the invariant. -/
theorem OnTrack.blockInv {s : State} (h : OnTrack s) (hm : PmOk s)
    (hstop : s.seq = .ready ∨ turn sequencerStep s = none) : BlockInv s := by
  have hheld (hf : s.fault = none) (hb : s.seq ≠ .ready) : Rests s ∧ s.booted = true ∧ ConfigApplied s := by
    have hc : canMove s = false := canMove_of_turn_none hf (hstop.resolve_left hb)
    cases hs : s.seq with
    | ready => exact absurd hs hb
    | busy op l => exact rests_of_held hs ((positionOk_busy hs).mp (h.position hf)) hc
  have hready (hf : s.fault = none) (hs : s.seq = .ready) : AtRest s := (positionOk_ready hs).mp (h.position hf)
  refine ⟨h.params, hm, h.indicator, fun hb => ⟨?_, h.unbooted hb⟩, fun hb hf => ?_, fun hb hf => ?_⟩
  · by_contra hne
    by_cases hf : s.fault = none
    · cases (hheld hf hne).2.1.symm.trans hb
    · exact hne (h.stopped hf)
  · by_cases hs : s.seq = .ready
    · exact .inl ⟨hs, (hready hf hs).ep0, (hready hf hs).awake⟩
    · exact (hheld hf hs).1
  · by_cases hs : s.seq = .ready
    · exact (hready hf hs).applied hb
    · exact (hheld hf hs).2.2

/-- Settles O55: the invariant puts the block on track, every turn keeps it there, and a step stops at rest or held. -/
theorem blockInvariantIsKept : Obligations.BlockInvariantIsKept := by
  intro s t h ht
  cases hf : s.fault with
  | some f => exact absurd ((step_faulted hf).symm.trans ht) (stopped_ne_next f t)
  | none =>
    have htrack : OnTrack t := step_keeps (I := OnTrack) (fun _ _ hs => hs.tick) (h.onTrack hf) ht
    exact htrack.blockInv (programMemoryStaysCanonical s t h.memory ht) (step_ends (h.seqCost_le hf) ht)

end Sys2Proof.Machine
end

section
/-! PROOFS. A configuration command stops first, whatever comes in between: its sequence is followed one micro-operation at
a time through every interleaving. -/

namespace Sys2Proof.Machine

/-! ### Following a run through every interleaving -/

/-- A run from `s` with turns enough for what is left to do ends in `t`. -/
def RunsTo (s t : State) : Prop := ∃ n, workLeft s ≤ n ∧ run n s = t

/-- The two states agree, besides, in the trace: in all that no other agent writes (R30, R60). -/
structure SameRecord (s t : State) : Prop extends SameBlock s t where
  trace : t.trace = s.trace := by rfl

theorem SameRecord.trans {s t u : State} (h : SameRecord s t) (h' : SameRecord t u) : SameRecord s u :=
  ⟨h.toSameBlock.trans h'.toSameBlock, h'.trace.trans h.trace⟩

theorem counted_sameRecord (s : State) : SameRecord s (counted s) := {}

theorem envStep_sameRecord (e : EnvEvent) (s : State) : SameRecord s (envStep e s) := by
  obtain ⟨_, _, _, _, _, _, _, _, htrace, _⟩ := environmentKeepsTheBlocksState e s
  exact ⟨envStep_sameBlock e s, htrace⟩

/-- Only a lock-up moves the sequencer, and it faults the block (R195). -/
theorem envStep_seq_or_fault (e : EnvEvent) (s : State) :
    (envStep e s).seq = s.seq ∨ (envStep e s).fault = some .fifoLockup := by
  by_cases he : e = .lockup
  · subst he
    by_cases hz : s.watch.hazard = true
    · exact .inr (by simp [envStep, hz])
    · exact .inl (by simp [envStep, hz])
  · obtain ⟨_, _, _, _, _, _, _, _, _, _, _, _, hseq, _⟩ := environmentKeepsTheBlocksState e s
    exact .inl (hseq he).1

section
variable {s t : State} {op : Op} {rest : List Micro}

/-- A run that ends without a fault began without one (R67). -/
theorem RunsTo.fault_none (h : RunsTo s t) (hf : t.fault = none) : s.fault = none := by
  obtain ⟨n, _, rfl⟩ := h
  cases hs : s.fault with
  | none => rfl
  | some f => rwa [run_faulted hs, hs] at hf

/-- A run inside an operation goes on after its first turn. -/
theorem RunsTo.after_turn {s' : State} (h : RunsTo s t) (hs : s.seq = .busy op rest)
    (ht : turn sequencerStep s = some s') : RunsTo s' t := by
  obtain ⟨n, hn, rfl⟩ := h
  have hlt := turn_workLeft hs ht
  cases n with
  | zero => omega
  | succ n => exact ⟨n, by omega, by simp [run, hs, ht]⟩

/-- A run that ends without a fault makes its next micro-operation, if that one is never held: other agents may step
first, and `v` is the block as they leave it. -/
theorem RunsTo.next {m : Micro} (h : RunsTo s t) (hf : t.fault = none) (hs : s.seq = .busy op (m :: rest))
    (hfree : ∀ v : State, v.seq = .busy op (m :: rest) → canMove v = true) :
    ∃ v, SameRecord s v ∧ RunsTo (microStep op m rest v) t := by
  induction hw : workLeft s using Nat.strong_induction_on generalizing s with
  | _ k ih =>
    subst hw
    cases ht : turn sequencerStep s with
    | none => cases (hfree s hs).symm.trans (canMove_of_turn_none (h.fault_none hf) ht)
    | some s' =>
      have hrun := h.after_turn hs ht
      obtain ⟨_, ⟨d, e, l, _, rfl⟩ | ⟨_, rfl⟩⟩ := turn_cases ht
      · have hlast : SameRecord s (envStep e { s with inputs := l }) :=
          SameRecord.trans (t := { s with inputs := l }) {} (envStep_sameRecord e _)
        rcases envStep_seq_or_fault e { s with inputs := l } with hseq | hfault
        · obtain ⟨v, hv, hrest⟩ := ih _ (turn_workLeft hs ht) hrun (hseq.trans hs) rfl
          exact ⟨v, hlast.trans hv, hrest⟩
        · cases (hrun.fault_none hf).symm.trans hfault
      · exact ⟨counted s, counted_sameRecord s, by simpa [sequencerStep, hs] using hrun⟩

/-- The next micro-operation is a plain one: it is made (R16, R33). -/
theorem RunsTo.act {a : Act} (h : RunsTo s t) (hf : t.fault = none) (hs : s.seq = .busy op (.act a :: rest)) :
    ∃ v, SameRecord s v ∧ RunsTo (atSeq (seqAfter op rest) (actEffect a (closeHazard v))) t :=
  h.next hf hs fun v hv => by simp [canMove, hv]

/-- A run whose next micro-operation is a raise ends with a fault. -/
theorem RunsTo.raise_fault {f : StickyFault} (h : RunsTo s t) (hs : s.seq = .busy op (.raise f :: rest)) :
    t.fault ≠ none := by
  intro hf
  obtain ⟨v, _, hrun⟩ := h.next hf hs fun v hv => by simp [canMove, hv]
  cases hrun.fault_none hf

/-- A register write and its delay leave the configuration, and the events of the write at the end of the trace. -/
theorem RunsTo.wrSync {r : Reg} {v : Byte} (h : RunsTo s t) (hf : t.fault = none)
    (hs : s.seq = .busy op (wrSync r v ++ rest)) :
    ∃ u, RunsTo u t ∧ u.seq = seqAfter op rest ∧ u.cfg = s.cfg ∧ u.trace = s.trace ++ writeEvents r v s.cfg.alt := by
  obtain ⟨x, hx, hrun⟩ := h.act hf hs
  obtain ⟨y, hy, hrun⟩ := hrun.act hf rfl
  refine ⟨_, hrun, rfl, hy.cfg.trans hx.cfg, hy.trace.trans ?_⟩
  show x.trace ++ writeEvents r v x.cfg.alt = _
  rw [hx.trace, hx.cfg]

/-- A run through `stop()` comes to a state with acquisition Idle and the events of `stop()` made (R210). -/
theorem RunsTo.stop (h : RunsTo s t) (hf : t.fault = none)
    (hs : s.seq = .busy op (stopOps s.params s.cfg.alt ++ rest)) :
    ∃ u, RunsTo u t ∧ u.seq = seqAfter op rest ∧ u.acq = .idle ∧
      u.trace = s.trace ++ stopEvents s.params s.cfg.alt := by
  simp only [stopOps, List.append_assoc] at hs
  obtain ⟨x, hrun, hseq, hcfg, htrace⟩ := h.wrSync hf hs
  obtain ⟨y, hrun, hseq, -, htrace'⟩ := hrun.wrSync hf hseq
  obtain ⟨z, hz, hrun⟩ := hrun.act hf hseq
  refine ⟨_, hrun, rfl, rfl, hz.trace.trans ?_⟩
  rw [htrace', htrace, hcfg, List.append_assoc]
  rfl

/-- A run keeps every group that what is left to do does not write, whatever comes meanwhile. -/
theorem RunsTo.kept (h : RunsTo s t) {g : Group} {W : List Group} (hW : WritesWithin W (opsLeft s)) (hg : g ∉ W) :
    Kept g s t := by
  obtain ⟨n, _, rfl⟩ := h
  exact (run_keeps (I := KeptWithin g W s) (fun _ _ => turn_keptWithin hg) n ⟨Kept.refl g s, hW⟩).1

/-- A run only adds to the trace (R66). -/
theorem RunsTo.trace_append (h : RunsTo s t) : ∃ l, t.trace = s.trace ++ l := by
  obtain ⟨n, _, rfl⟩ := h
  obtain ⟨k, hk⟩ := exists_ticks_run n s
  obtain ⟨_, l, hl, _⟩ :=
    ticks_keeps (I := Follows s) (fun _ _ hu ht => hu.trans (follows_tick ht)) k (Follows.refl s) hk
  exact ⟨l, hl⟩

end

/-! ### The configuration commands -/

/-- A configuration command's sequence begins with `stop()`, unless it refuses its argument (R89, R243, R252). -/
theorem dispatchOps_of_config {i : Instr} (hi : isConfigCommand i = true) (s : State) :
    (∃ rest, dispatchOps i s = stopOps s.params s.cfg.alt ++ rest) ∨ dispatchOps i s = [.raise .badAlt] := by
  have hconfig (k : PayloadUse) : ∃ rest, configCommandOps k s = stopOps s.params s.cfg.alt ++ rest := by
    simp only [configCommandOps, prologueOps, List.append_assoc]
    exact ⟨_, rfl⟩
  cases i with
  | volt0 _ => exact .inl (hconfig (.voltage .ch0))
  | volt1 _ => exact .inl (hconfig (.voltage .ch1))
  | rate _ => exact .inl (hconfig .rate)
  | nch _ => exact .inl (hconfig .channelCount)
  | setAlt a =>
    simp only [dispatchOps, setAltOps, prologueOps, List.append_assoc]
    split
    · exact .inr rfl
    · exact .inl ⟨_, rfl⟩
  | _ => cases hi

/-- No configuration command enters Running (R215). -/
theorem entry_not_mem_of_config {i : Instr} (hi : isConfigCommand i = true) : Group.entry ∉ commandWrites i := by
  cases i <;> simp_all [isConfigCommand, commandWrites]

/-- A command that answers a next state has run its sequence, which the fuel suffices for (R240). -/
theorem runsTo_of_exec {i : Instr} {s t : State} (h : exec i s = .next t) :
    RunsTo (takeRequest i (dispatchOps i s) (counted s)) t := by
  rw [exec_eq] at h
  obtain ⟨_, _, rfl⟩ := runRequest_next h
  have hcost := opsCost_dispatch i s
  exact ⟨_, by simp only [workLeft, fuel, takeRequest_seq, seqCost]; omega, rfl⟩

/-- Settles O47: the run passes the end of `stop()`; after it nothing enters Running, and the trace only grows. -/
theorem configCommandsStopFirst : Obligations.ConfigCommandsStopFirst := by
  intro i s t hi h hf
  have hrun := runsTo_of_exec h
  have hwrites := writesWithin_dispatch i s
  obtain ⟨rest, hops⟩ | hops := dispatchOps_of_config hi s <;> rw [hops] at hrun
  · rw [hops, writesWithin_append] at hwrites
    obtain ⟨u, hrun, hseq, hacq, htrace⟩ := hrun.stop hf rfl
    constructor
    · have hentry : t.acq = .running → u.acq = .running :=
        hrun.kept (g := .entry) (writesWithin_seqAfter hwrites.2 hseq) (entry_not_mem_of_config hi)
      cases ht : t.acq with
      | idle => rfl
      | running => cases hacq.symm.trans (hentry ht)
    · obtain ⟨l, hl⟩ := hrun.trace_append
      exact ⟨l, by rw [hl, htrace]; rfl⟩
  · exact absurd hf (hrun.raise_fault rfl)

end Sys2Proof.Machine
end

section
/-! PROOFS. The encoding: what each kind of word decodes to, the commands of the five request codes, the two round trips and
the rows of the opcode map; the accepted operand values. -/

namespace Sys2Proof

open Machine

/-! ### The decoder on a word given by its fields (R105) -/

@[simp] theorem decode_mkWord_vendorOut (P : Params) (r a : Byte) :
    decode P (mkWord kindVendorOut r a) = .instr (decodeVendorOut P r a) := by
  simp [decode]

@[simp] theorem decode_mkWord_vendorIn (P : Params) (r a : Byte) :
    decode P (mkWord kindVendorIn r a) = .instr (.vendorIn r a) := by
  simp [decode, show kindVendorIn ≠ kindVendorOut by decide]

@[simp] theorem decode_mkWord_setInterface (P : Params) (a : Byte) :
    decode P (mkWord kindStdOut reqSetInterface a) = .instr (.setAlt a) := by
  simp [decode, show kindStdOut ≠ kindVendorOut by decide, show kindStdOut ≠ kindVendorIn by decide]

@[simp] theorem decode_mkWord_getInterface (P : Params) (a : Byte) :
    decode P (mkWord kindStdIn reqGetInterface a) = .instr (.getAlt a) := by
  simp [decode, show kindStdIn ≠ kindVendorOut by decide, show kindStdIn ≠ kindVendorIn by decide,
    show kindStdIn ≠ kindStdOut by decide]

/-- Every other word is not for the block. -/
theorem decode_mkWord_notForBlock (P : Params) {k r : Byte} (a : Byte) (hvendor : k ≠ kindVendorOut ∧ k ≠ kindVendorIn)
    (hset : ¬ (k = kindStdOut ∧ r = reqSetInterface)) (hget : ¬ (k = kindStdIn ∧ r = reqGetInterface)) :
    decode P (mkWord k r a) = .notForBlock := by
  simp [decode, hvendor, hset, hget]

/-- What a word that decodes to a command looks like: one case for each line of R105. -/
theorem decode_eq_instr {P : Params} {w : Word24} {i : Instr} (h : decode P w = .instr i) :
    (∃ r a, w = mkWord kindVendorOut r a ∧ i = decodeVendorOut P r a) ∨
    (∃ r a, w = mkWord kindVendorIn r a ∧ i = .vendorIn r a) ∨
    (∃ a, w = mkWord kindStdOut reqSetInterface a ∧ i = .setAlt a) ∨
    (∃ a, w = mkWord kindStdIn reqGetInterface a ∧ i = .getAlt a) := by
  unfold decode at h
  split_ifs at h with hout hin hset hget <;> cases h
  · exact .inl ⟨_, _, by rw [← hout, mkWord_fields], rfl⟩
  · exact .inr (.inl ⟨_, _, by rw [← hin, mkWord_fields], rfl⟩)
  · exact .inr (.inr (.inl ⟨_, by rw [← hset.1, ← hset.2, mkWord_fields], rfl⟩))
  · exact .inr (.inr (.inr ⟨_, by rw [← hget.1, ← hget.2, mkWord_fields], rfl⟩))

/-! ### The five request codes (R101) -/

/-- The one command that a word may fail to stand for is VENDOR_UNKNOWN with one of the five codes. -/
theorem wf_vendorUnknown {P : Params} {r a : Byte} : (Instr.vendorUnknown r a).wf P = true ↔
    r ∉ [P.reqVolt0, P.reqVolt1, P.reqRate, P.reqAcq, P.reqNch] := by
  simp [Instr.wf, knownCode, and_assoc, and_comm (a := ¬r = P.reqNch)]

/-- A code that is none of the five names no command of its own. -/
theorem decodeVendorOut_of_wf {P : Params} {r a : Byte} (h : (Instr.vendorUnknown r a).wf P = true) :
    decodeVendorOut P r a = .vendorUnknown r a := by
  simp only [wf_vendorUnknown, List.mem_cons, List.not_mem_nil, or_false, not_or] at h
  simp [decodeVendorOut, h]

/-- Distinct codes are told apart: no line of R105 hides a later one. -/
theorem decodeVendorOut_of_codesDistinct {P : Params} (hP : P.CodesDistinct) (a : Byte) :
    decodeVendorOut P P.reqVolt0 a = .volt0 a ∧ decodeVendorOut P P.reqVolt1 a = .volt1 a ∧
    decodeVendorOut P P.reqRate a = .rate a ∧ decodeVendorOut P P.reqAcq a = .acq a ∧
    decodeVendorOut P P.reqNch a = .nch a := by
  simp only [Params.CodesDistinct, List.pairwise_cons, List.forall_mem_cons] at hP
  obtain ⟨⟨h01, h02, h03, h04, _⟩, ⟨h12, h13, h14, _⟩, ⟨h23, h24, _⟩, ⟨h34, _⟩, _⟩ := hP
  simp [decodeVendorOut, h01.symm, h02.symm, h03.symm, h04.symm, h12.symm, h13.symm, h14.symm, h23.symm, h24.symm, h34]

/-- The line of R105 that matches a code gives a well-formed command with that code, distinct codes or not. -/
theorem encode_decodeVendorOut (P : Params) (r a : Byte) :
    encode P (decodeVendorOut P r a) = mkWord kindVendorOut r a ∧ (decodeVendorOut P r a).wf P = true := by
  unfold decodeVendorOut
  split_ifs with h0 h1 h2 h3 h4
  · exact ⟨h0 ▸ rfl, rfl⟩
  · exact ⟨h1 ▸ rfl, rfl⟩
  · exact ⟨h2 ▸ rfl, rfl⟩
  · exact ⟨h3 ▸ rfl, rfl⟩
  · exact ⟨h4 ▸ rfl, rfl⟩
  · exact ⟨rfl, wf_vendorUnknown.mpr (by simp [h0, h1, h2, h3, h4])⟩

/-! ### The round trips -/

/-- Settles O1: the word's kind picks the line of R105, and among vendor requests the distinct codes pick the command. -/
theorem decodeOfEncodeIsTheCommand : Obligations.DecodeOfEncodeIsTheCommand := by
  intro P i hP hwf
  have hcodes (arg : Byte) := decodeVendorOut_of_codesDistinct hP arg
  cases i with
  | volt0 arg => simp [encode, hcodes]
  | volt1 arg => simp [encode, hcodes]
  | rate arg => simp [encode, hcodes]
  | acq arg => simp [encode, hcodes]
  | nch arg => simp [encode, hcodes]
  | vendorUnknown req arg => simp [encode, decodeVendorOut_of_wf hwf]
  | vendorIn req arg => exact decode_mkWord_vendorIn P req arg
  | setAlt a => exact decode_mkWord_setInterface P a
  | getAlt arg => exact decode_mkWord_getInterface P arg

/-- Settles O2: the word's fields are those of the line of R105 that matched, and the encoder writes the same. -/
theorem encodeOfDecodeIsTheWord : Obligations.EncodeOfDecodeIsTheWord := by
  intro P w i h
  obtain ⟨r, a, rfl, rfl⟩ | ⟨r, a, rfl, rfl⟩ | ⟨a, rfl, rfl⟩ | ⟨a, rfl, rfl⟩ := decode_eq_instr h
  · exact encode_decodeVendorOut P r a
  · exact ⟨rfl, rfl⟩
  · exact ⟨rfl, rfl⟩
  · exact ⟨rfl, rfl⟩

/-! ### The opcode map (R106) -/

/-- Under the default codes, which are distinct, a well-formed command is read back from its word. -/
theorem decode_encode_default (i : Instr) (hwf : i.wf defaultParams = true) :
    decode defaultParams (encode defaultParams i) = .instr i :=
  decodeOfEncodeIsTheCommand defaultParams i (by decide) hwf

/-- Settles O3: each command's row is its encoding, and the last row is what no line of R105 matches. -/
theorem opcodeMapDecodes : Obligations.OpcodeMapDecodes := by
  refine ⟨fun pp => decode_encode_default (.volt0 pp) rfl, fun pp => decode_encode_default (.volt1 pp) rfl,
    fun pp => decode_encode_default (.rate pp) rfl, fun pp => decode_encode_default (.acq pp) rfl,
    fun pp => decode_encode_default (.nch pp) rfl,
    fun rr pp hrr => decode_encode_default (.vendorUnknown rr pp) (wf_vendorUnknown.mpr hrr),
    fun rr pp => decode_encode_default (.vendorIn rr pp) rfl, fun aa => decode_encode_default (.setAlt aa) rfl,
    fun aa => decode_encode_default (.getAlt aa) rfl, fun kk rr aa hkk hset hget => ?_⟩
  simp only [List.mem_cons, List.not_mem_nil, or_false, not_or] at hkk
  exact decode_mkWord_notForBlock defaultParams aa hkk hset hget

/-- Settles O4: each word is one of the words of its row. -/
theorem specWordsDecode : Obligations.SpecWordsDecode := by
  obtain ⟨volt0, volt1, rate, acq, nch, unknown, vendorIn, setAlt, getAlt, foreign⟩ := opcodeMapDecodes
  exact ⟨volt0 10, volt1 5, rate 24, acq 1, nch 1, unknown 0x0B 1 (by decide), vendorIn 0xE0 0, setAlt 2, getAlt 0,
    foreign 0x00 0x09 0x00 (by decide) (by decide) (by decide), foreign 0x41 0x00 0x00 (by decide) (by decide) (by decide)⟩

/-! ### The accepted operand values (R103) -/

/-- The accepted voltage codes are the payload bytes of the four codes (R130). -/
theorem voltageCode_eq_some {b : Byte} {c : VoltageCode} : voltageCode b = some c ↔ voltageByte c = b := by
  constructor
  · intro h
    unfold voltageCode at h
    split_ifs at h with h1 h2 h5 h10 <;> cases h
    exacts [h1.symm, h2.symm, h5.symm, h10.symm]
  · rintro rfl
    cases c <;> rfl

/-- The accepted channel counts are the numbers of the two counts (R136). -/
theorem channelCount_eq_some {b : Byte} {n : ChannelCount} :
    channelCount b = some n ↔ BitVec.ofNat 8 (countNat n) = b := by
  constructor
  · intro h
    unfold channelCount at h
    split_ifs at h with h1 h2 <;> cases h
    exacts [h1.symm, h2.symm]
  · rintro rfl
    cases n <;> rfl

theorem voltageCode_isSome (b : Byte) : (voltageCode b).isSome = true ↔ b = 1 ∨ b = 2 ∨ b = 5 ∨ b = 10 := by
  rw [Option.isSome_iff_exists]
  constructor
  · rintro ⟨c, hc⟩
    rw [← voltageCode_eq_some.mp hc]
    cases c <;> decide
  · rintro (rfl | rfl | rfl | rfl)
    exacts [⟨.v1, rfl⟩, ⟨.v2, rfl⟩, ⟨.v5, rfl⟩, ⟨.v10, rfl⟩]

theorem channelCount_isSome (b : Byte) : (channelCount b).isSome = true ↔ b = 1 ∨ b = 2 := by
  rw [Option.isSome_iff_exists]
  constructor
  · rintro ⟨n, hn⟩
    rw [← channelCount_eq_some.mp hn]
    cases n <;> decide
  · rintro (rfl | rfl)
    exacts [⟨.one, rfl⟩, ⟨.two, rfl⟩]

/-- A rate identifier is accepted exactly when the linear scan meets it (R152). -/
theorem lookupProfile_isSome (P : Params) (id : Byte) :
    (lookupProfile P id).isSome = true ↔ ∃ p ∈ P.rateTable, p.id = id := by
  simp [lookupProfile, List.find?_isSome]

theorem altSetting_eq_bulk (b : Byte) : altSetting b = some .bulk ↔ b = 0 := by
  simp [altSetting]

theorem altSetting_eq_iso (b : Byte) : altSetting b = some .iso ↔ b = 1 := by
  unfold altSetting
  split_ifs with h0 h1
  · simp [h0]
  · simp [h1]
  · exact iff_of_false nofun h1

theorem altSetting_eq_none (b : Byte) : altSetting b = none ↔ 2 ≤ b.toNat := by
  unfold altSetting
  split_ifs with h0 h1
  · simp [h0]
  · simp [h1]
  · simp only [true_iff]
    bv_omega

/-- Settles O5: operand by operand. -/
theorem acceptedOperandValues : Obligations.AcceptedOperandValues := fun P b =>
  ⟨voltageCode_isSome b, fun _ => voltageCode_eq_some.mp, lookupProfile_isSome P b, channelCount_isSome b,
    fun _ => channelCount_eq_some.mp, altSetting_eq_bulk b, altSetting_eq_iso b, altSetting_eq_none b⟩

end Sys2Proof
end

section
/-! PROOFS. A set-voltage command keeps the bits of `SW` outside its channel's mask: the byte still to be written agrees with
`SW` there, through every interleaving. -/

namespace Sys2Proof.Machine

/-! ### The writes of `SW` -/

/-- Of the plain micro-operations, only the register write of `SW` writes it. -/
theorem eq_wr_of_switches_mem {a : Act} (h : Group.switches ∈ actWrites a) : ∃ v, a = .wr .sw v := by
  cases a with
  | wr r v => cases r <;> simp [actWrites, regWrites] at h ⊢
  | resetWrite k => cases k <;> simp [actWrites, resetReg, regWrites] at h
  | setAcq a => cases a <;> simp [actWrites] at h
  | _ => simp [actWrites] at h

/-- A sequence that writes no group `switches` holds no write of `SW`. -/
theorem WritesWithin.wr_sw_not_mem {W : List Group} {l : List Micro} (h : WritesWithin W l) (hW : Group.switches ∉ W)
    (v : Byte) : .act (.wr .sw v) ∉ l := fun hv =>
  hW (h _ hv (by simp [microWrites, actWrites, regWrites]))

theorem microStep_sw (op : Op) (m : Micro) (rest : List Micro) (s : State) :
    (microStep op m rest s).regs.sw = s.regs.sw ∨
      ∃ v, m = .act (.wr .sw v) ∧ (microStep op m rest s).regs.sw = v := by
  cases m with
  | act a =>
    by_cases ha : Group.switches ∈ actWrites a
    · obtain ⟨v, rfl⟩ := eq_wr_of_switches_mem ha
      exact .inr ⟨v, rfl, rfl⟩
    · exact .inl (microStep_kept (m := .act a) (g := .switches) ha op rest s)
  | readPayload k => left; simp only [microStep]; split <;> rfl
  | sampleSpeed a => exact .inl rfl
  | wait c => left; simp only [microStep]; split <;> rfl
  | reply r => cases op <;> exact .inl rfl
  | raise f => exact .inl rfl

theorem wr_sw_mem_setVoltage {ch : Channel} {b v : Byte} {s : State} (h : .act (.wr .sw v) ∈ setVoltageOps ch b s) :
    ∃ c, v = insertField s.params ch c s.regs.sw := by
  unfold setVoltageOps at h
  split at h
  · simp at h
  · next c _ => exact ⟨c, by simpa [wrSync] using h⟩

/-- The only payloads that expand to a write of `SW` are the voltage codes, and it is the field insert (R131). -/
theorem wr_sw_mem_payload {k : PayloadUse} {b v : Byte} {s : State} (h : .act (.wr .sw v) ∈ payloadOps k b s) :
    ∃ ch c, k = .voltage ch ∧ v = insertField s.params ch c s.regs.sw := by
  have hno (hk : Group.switches ∉ payloadWrites k) : False := (writesWithin_payload k b s).wr_sw_not_mem hk v h
  cases k with
  | voltage ch => obtain ⟨c, hc⟩ := wr_sw_mem_setVoltage h; exact ⟨ch, c, rfl, hc⟩
  | _ => exact (hno (by simp [payloadWrites])).elim

theorem mem_of_mem_opsLeft_seqAfter {x : Micro} {s : State} {op : Op} {l : List Micro} (hs : s.seq = seqAfter op l)
    (hx : x ∈ opsLeft s) : x ∈ l := by
  cases l with
  | nil => simp [opsLeft, hs, seqAfter] at hx
  | cons m l => rwa [opsLeft_busy hs] at hx

/-- A write of `SW` left to do after a micro-operation was left to do before it, or is the field insert of the payload just
read (R131). -/
theorem wr_sw_mem_microStep {op : Op} {m : Micro} {rest : List Micro} {s : State} {v : Byte}
    (hs : s.seq = .busy op (m :: rest)) (h : .act (.wr .sw v) ∈ opsLeft (microStep op m rest s)) :
    .act (.wr .sw v) ∈ opsLeft s ∨
      ∃ ch c, m = .readPayload (.voltage ch) ∧ v = insertField s.params ch c s.regs.sw := by
  have hrest (hm : .act (.wr .sw v) ∈ rest) : .act (.wr .sw v) ∈ opsLeft s := by
    rw [opsLeft_busy hs]; exact List.mem_cons_of_mem m hm
  cases m with
  | act a => exact .inl (hrest (mem_of_mem_opsLeft_seqAfter rfl h))
  | wait c =>
    simp only [microStep] at h
    split at h
    · exact .inl (hrest (mem_of_mem_opsLeft_seqAfter rfl h))
    · exact .inl h
  | readPayload k =>
    simp only [microStep] at h
    split at h
    · exact .inl h
    · rcases List.mem_append.mp (mem_of_mem_opsLeft_seqAfter rfl h) with hpay | hr
      · obtain ⟨ch, c, rfl, hv⟩ := wr_sw_mem_payload hpay
        exact .inr ⟨ch, c, rfl, hv⟩
      · exact .inl (hrest hr)
  | sampleSpeed a =>
    rcases List.mem_append.mp (mem_of_mem_opsLeft_seqAfter rfl h) with hend | hr
    · exact absurd hend ((writesWithin_endpoint s.params s.speed a).wr_sw_not_mem (by simp) v)
    · exact .inl (hrest hr)
  | reply r => cases op <;> simp [microStep, reply, opsLeft] at h
  | raise f => simp [microStep, opsLeft] at h

/-! ### A set-voltage command through every interleaving -/

/-- The two bytes agree outside the channel's mask (R132). -/
def SameOutside (P : Params) (ch : Channel) (a b : Byte) : Prop := a &&& ~~~(chMask P ch) = b &&& ~~~(chMask P ch)

/-- `SW`, and every byte still to be written there, is as in `s` outside the channel's mask. -/
def OutsideKept (ch : Channel) (s t : State) : Prop :=
  SameOutside s.params ch t.regs.sw s.regs.sw ∧
  ∀ v, .act (.wr .sw v) ∈ opsLeft t → SameOutside s.params ch v s.regs.sw

theorem envStep_outsideKept {ch : Channel} {s t : State} (h : OutsideKept ch s t) (e : EnvEvent) :
    OutsideKept ch s (envStep e t) := by
  obtain ⟨hsw, hleft⟩ := h
  refine ⟨by rwa [(envStep_sameBlock e t).regs], fun v hv => ?_⟩
  rcases envStep_seq e t with hs | hs
  · exact hleft v (by simpa [opsLeft, hs] using hv)
  · simp [opsLeft_ready hs] at hv

/-- The parameters are as in `s`, and what is left to do writes within the command's groups (R35). -/
def VoltRun (ch : Channel) (arg : Byte) (s t : State) : Prop :=
  KeptWithin .parameters (commandWrites (voltInstr ch arg)) s t

theorem turn_voltRun {ch : Channel} {arg : Byte} {s t u : State} (h : VoltRun ch arg s t)
    (ht : turn sequencerStep t = some u) : VoltRun ch arg s u :=
  turn_keptWithin (by cases ch <;> simp [voltInstr, commandWrites]) h ht

theorem VoltRun.params_eq {ch : Channel} {arg : Byte} {s t : State} (h : VoltRun ch arg s t) : t.params = s.params := h.1

/-- A set-voltage command reads its payload for its own channel only. -/
theorem VoltRun.channel_eq {ch ch' : Channel} {arg : Byte} {s t : State} (h : VoltRun ch arg s t)
    (hm : .readPayload (.voltage ch') ∈ opsLeft t) : ch' = ch := by
  have hr : Group.range ch' ∈ commandWrites (voltInstr ch arg) := h.2 _ hm (by simp [microWrites, payloadWrites])
  cases ch <;> simpa [voltInstr, commandWrites] using hr

theorem microStep_outsideKept {ch : Channel} {arg : Byte} {s t : State} {op : Op} {m : Micro} {rest : List Micro}
    (hrun : VoltRun ch arg s t) (h : OutsideKept ch s t) (hs : t.seq = .busy op (m :: rest)) :
    OutsideKept ch s (microStep op m rest t) := by
  obtain ⟨hsw, hleft⟩ := h
  have hm : m ∈ opsLeft t := by simp [opsLeft_busy hs]
  constructor
  · rcases microStep_sw op m rest t with heq | ⟨v, rfl, heq⟩ <;> rw [heq]
    · exact hsw
    · exact hleft v hm
  · intro v hv
    rcases wr_sw_mem_microStep hs hv with hold | ⟨ch', c, rfl, rfl⟩
    · exact hleft v hold
    · obtain rfl := hrun.channel_eq hm
      rw [hrun.params_eq]
      exact (insertField_outside s.params ch' c t.regs.sw).trans hsw

theorem turn_outsideKept {ch : Channel} {arg : Byte} {s t u : State} (hrun : VoltRun ch arg s t)
    (h : OutsideKept ch s t) (ht : turn sequencerStep t = some u) : OutsideKept ch s u := by
  obtain ⟨_, ⟨d, e, l, _, rfl⟩ | ⟨_, rfl⟩⟩ := turn_cases ht
  · exact envStep_outsideKept (t := { t with inputs := l }) h e
  · unfold sequencerStep
    split
    · exact h
    · exact ⟨h.1, by simp [opsLeft]⟩
    · next hs => exact microStep_outsideKept (t := counted t) hrun h hs

/-- A set-voltage command's sequence holds no write of `SW` before its payload is read (R246). -/
theorem wr_sw_not_mem_voltOps (ch : Channel) (arg : Byte) (s : State) (v : Byte) :
    .act (.wr .sw v) ∉ dispatchOps (voltInstr ch arg) s := by
  have hpro := (writesWithin_prologue s).wr_sw_not_mem (by simp) v
  cases ch <;> simp [voltInstr, dispatchOps, volt0Ops, volt1Ops, configCommandOps, hpro]

/-- Settles O25: until the payload is read no write of `SW` is left to do; the one it expands to keeps the other bits of
`SW` as it stands, which no other agent writes. -/
theorem voltCommandKeepsTheOtherBits : Obligations.VoltCommandKeepsTheOtherBits := by
  intro ch arg s t h
  obtain ⟨n, _, rfl⟩ := runsTo_of_exec h
  have hrun : VoltRun ch arg s (takeRequest (voltInstr ch arg) (dispatchOps (voltInstr ch arg) s) (counted s)) :=
    ⟨rfl, writesWithin_dispatch (voltInstr ch arg) s⟩
  have hsw : OutsideKept ch s (takeRequest (voltInstr ch arg) (dispatchOps (voltInstr ch arg) s) (counted s)) :=
    ⟨rfl, fun v hv => absurd hv (wr_sw_not_mem_voltOps ch arg s v)⟩
  obtain ⟨_, hout, _⟩ := run_keeps (I := fun u => VoltRun ch arg s u ∧ OutsideKept ch s u)
    (fun _ _ hu ht => ⟨turn_voltRun hu.1 ht, turn_outsideKept hu.1 hu.2 ht⟩) n ⟨hrun, hsw⟩
  exact hout

end Sys2Proof.Machine
end

section
/-! PROOFS. The sample-clock program loader: a configuration command whose data stage comes when it is awaited, followed
one micro-operation at a time, and the image a RATE leaves. -/

namespace Sys2Proof.Machine

/-! ### The lookup (R152) -/

/-- Two profiles of a well-formed table with one identifier are one profile (R151). -/
theorem profile_eq_of_id_eq {P : Params} (hP : P.TableOk) {p q : Profile} (hp : p ∈ P.rateTable)
    (hq : q ∈ P.rateTable) (hid : p.id = q.id) : p = q := by
  obtain ⟨huniq, _, _⟩ := hP
  exact List.inj_on_of_nodup_map (List.pairwise_map.mpr huniq) hp hq hid

/-- What the linear scan finds is in the table, with the identifier that was looked up. -/
theorem mem_of_lookupProfile {P : Params} {id : Byte} {p : Profile} (h : lookupProfile P id = some p) :
    p ∈ P.rateTable ∧ p.id = id :=
  ⟨List.mem_of_find?_eq_some h, by simpa using List.find?_some h⟩

theorem lookupProfile_eq_some {P : Params} (hP : P.TableOk) {id : Byte} {p : Profile} :
    lookupProfile P id = some p ↔ p ∈ P.rateTable ∧ p.id = id := by
  refine ⟨mem_of_lookupProfile, fun ⟨hp, hid⟩ => ?_⟩
  obtain ⟨q, hq⟩ := Option.isSome_iff_exists.mp ((lookupProfile_isSome P id).mpr ⟨p, hp, hid⟩)
  obtain ⟨hqmem, hqid⟩ := mem_of_lookupProfile hq
  rw [hq, profile_eq_of_id_eq hP hqmem hp (hqid.trans hid.symm)]

theorem lookupProfile_eq_none {P : Params} {id : Byte} :
    lookupProfile P id = none ↔ ∀ p ∈ P.rateTable, p.id ≠ id := by
  simp [lookupProfile]

/-- Settles O29: the scan stops at a profile with the identifier, and the table has at most one. -/
theorem lookupFindsTheUniqueProfile : Obligations.LookupFindsTheUniqueProfile := fun _ _ hP =>
  ⟨fun _ => lookupProfile_eq_some hP, lookupProfile_eq_none⟩

/-! ### Following a run that no input interrupts -/

/-- The block at the position `l` of the operation `op`, with the FIFO hardware's view `w`. -/
def placed (op : Op) (l : List Micro) (w : FifoWatch) (s : State) : State :=
  { s with seq := seqAfter op l, watch := w }

/-- The block as in `s`, with `l` left of the operation `op` and no input to come before a hold, runs on to `t`. The FIFO
hardware's view is left open. -/
def QuietRun (op : Op) (l : List Micro) (s t : State) : Prop :=
  s.fault = none ∧ quiet s.inputs = true ∧ ∃ w, RunsTo (placed op l w s) t

/-- What a plain micro-operation does depends neither on the sequencer's position nor, but for the FIFO hardware's view
itself, on that view. -/
theorem actEffect_placed (a : Act) (op : Op) (l l' : List Micro) (w : FifoWatch) (s : State) :
    ∃ w', { actEffect a (closeHazard (placed op l w s)) with seq := seqAfter op l' } =
      placed op l' w' (actEffect a s) := by
  refine ⟨(actEffect a (closeHazard (placed op l w s))).watch, ?_⟩
  cases a with
  | pmWrite v =>
    by_cases h : s.pmPtr < s.params.progMemBytes <;> simp [actEffect, pmWrite, placed, closeHazard, raise, h]
  | setVr ch c => cases ch <;> rfl
  | _ => rfl

/-- The read of a payload byte puts its setting operation in front of what is left (R242, R244). -/
theorem microStep_readPayload {op : Op} {k : PayloadUse} {l : List Micro} {s : State} {d : DataStage}
    (hd : s.ep0 = some d) : microStep op (.readPayload k) l s =
      { closeHazard s with seq := seqAfter (opWithArg op d.first) (payloadOps k d.first s ++ l) } := by
  simp [microStep, hd]

section
variable {op : Op} {l : List Micro} {s t : State}

theorem QuietRun.congr {u : State} (h : QuietRun op l s t) (hu : AgreesButWatch u s) : QuietRun op l u t := by
  rw [hu]
  exact h

/-- The next turn is the next micro-operation's, where the thread can make it. -/
theorem QuietRun.micro {m : Micro} (h : QuietRun op (m :: l) s t)
    (hc : ∀ w, canMove (placed op (m :: l) w s) = true) :
    ∃ w, RunsTo (microStep op m l (placed op (m :: l) w s)) t := by
  obtain ⟨hf, hq, w, hrun⟩ := h
  exact ⟨w, hrun.after_turn rfl (turn_thread hf hq (hc w))⟩

/-- A plain micro-operation that raises nothing is made (R33). -/
theorem QuietRun.act {a : Act} (h : QuietRun op (.act a :: l) s t) (ha : (actEffect a s).fault = s.fault) :
    QuietRun op l (actEffect a s) t := by
  obtain ⟨w, hrun⟩ := h.micro fun _ => rfl
  obtain ⟨hf, hq, _⟩ := h
  obtain ⟨_, hinputs, _⟩ := actEffect_keeps a s
  obtain ⟨w', hw⟩ := actEffect_placed a op (.act a :: l) l w s
  exact ⟨ha.trans hf, by rwa [hinputs], w', hw ▸ hrun⟩

theorem QuietRun.wrSync {r : Reg} {v : Byte} (h : QuietRun op (wrSync r v ++ l) s t) :
    QuietRun op l (writeReg r v s) t :=
  (h.act (a := .wr r v) rfl).act (a := .sync) rfl

/-- Bytes through the pointer, with room for all of them (R52, R66, R80). -/
theorem QuietRun.pmWrites {bytes : List Byte} (h : QuietRun op (bytes.map (fun v => .act (.pmWrite v)) ++ l) s t)
    (hroom : s.pmPtr + bytes.length ≤ s.params.progMemBytes) :
    QuietRun op l { s with
      pm := writeBytes s.pmPtr bytes s.pm
      pmPtr := s.pmPtr + bytes.length
      trace := s.trace ++ pmEvents s.pmPtr bytes } t := by
  induction bytes generalizing s with
  | nil => simpa [writeBytes, pmEvents] using h
  | cons v bytes ih =>
    rw [List.length_cons] at hroom
    have hwrite : actEffect (.pmWrite v) s =
        { s with pm := Memory.write s.pmPtr v s.pm, pmPtr := s.pmPtr + 1, trace := s.trace ++ [.pm s.pmPtr v] } :=
      if_pos (by omega)
    have hnext := h.act (a := .pmWrite v) (by rw [hwrite])
    rw [hwrite] at hnext
    have hrest := ih hnext (by simp only; omega)
    simpa only [writeBytes, pmEvents, List.length_cons, List.append_assoc, List.singleton_append, Nat.add_assoc,
      Nat.add_comm 1] using hrest

/-- What a register write does to the generator (R61). -/
theorem phaseAfter_eq (r : Reg) (p : WfgPhase) :
    phaseAfter r p = if r = .wfgTrig then .executing else if r = .wfgAbort then abortedPhase p else p := by
  cases r <;> cases p <;> rfl

/-- `stop()` (R210). -/
theorem QuietRun.stop (h : QuietRun op (stopOps s.params s.cfg.alt ++ l) s t) : QuietRun op l (afterStop s) t := by
  simp only [stopOps, List.append_assoc] at h
  refine (QuietRun.act h.wrSync.wrSync (a := .setAcq .idle) rfl).congr ?_
  simp [AgreesButWatch, afterStop, actEffect, writeReg, regsWrite, phaseAfter_eq, fifoBulkAfter, fifoIsoAfter,
    writeEvents, stopEvents]

/-- `prologue()` (R243). -/
theorem QuietRun.prologue (h : QuietRun op (prologueOps s ++ l) s t) : QuietRun op l (afterPrologue s) t := by
  simp only [prologueOps, isRunning, Bool.or_eq_true, decide_eq_true_eq, List.append_assoc] at h
  have hstop := h.stop
  unfold afterPrologue
  split_ifs at hstop ⊢
  · exact hstop.act (a := .setLed .configuring s.params.configLedTicks) rfl
  · exact hstop

/-- `recomputeIso()` (R175). -/
theorem QuietRun.recomputeIso (h : QuietRun op (recomputeIsoOps s.cfg.alt ++ l) s t) :
    QuietRun op l (afterRecomputeIso s) t := by
  unfold afterRecomputeIso
  cases ha : s.cfg.alt with
  | bulk => rwa [ha] at h
  | iso =>
    rw [ha] at h
    exact (h.act (a := .writeIsoPkts) rfl).act (a := .sync) rfl

/-- `setSampleRate` for the profile found (R153). -/
theorem QuietRun.loadProfile {p : Profile} (h : QuietRun op (loadProfileOps s.params s.cfg.alt p ++ l) s t)
    (hsize : 120 ≤ s.params.progMemBytes) : QuietRun op l (afterSetSampleRate p s) t := by
  simp only [loadProfileOps, List.append_assoc] at h
  have hrewound := h.wrSync.wrSync.wrSync.wrSync.act (a := .pmRewind) rfl
  have hloaded := hrewound.pmWrites (by simpa [actEffect] using hsize)
  have hset := (hloaded.act (a := .setRateId p.id) rfl).act (a := .setRateKsps p.rateKsps) rfl
  refine QuietRun.recomputeIso (hset.congr ?_)
  simp [AgreesButWatch, actEffect, writeReg, regsWrite, phaseAfter_eq, fifoBulkAfter, fifoIsoAfter, writeEvents]

/-- A data stage comes when it is awaited (R63). -/
theorem QuietRun.dataStage {d : DataStage} {i : List Input} (h : QuietRun op (.wait .payload :: l) s t)
    (hd : PayloadComes d i s) : QuietRun op (.wait .payload :: l) { s with ep0 := some d, inputs := i } t := by
  obtain ⟨hep0, hinputs, hquiet⟩ := hd
  obtain ⟨hf, _, w, hrun⟩ := h
  have hheld : canMove (placed op (.wait .payload :: l) w s) = false := by simp [canMove, placed, waitHolds, hep0]
  have hcame := hrun.after_turn rfl (turn_held (s := placed op (.wait .payload :: l) w s) hf hheld hinputs)
  refine ⟨hf, hquiet, w, ?_⟩
  simpa [envStep, awaitsPayload, placed, hep0] using hcame

/-- A wait whose condition holds is passed (R91). -/
theorem QuietRun.wait {c : WaitCond} (h : QuietRun op (.wait c :: l) s t) (hc : waitHolds c s = true) :
    QuietRun op l s t := by
  have hplaced (w) : waitHolds c (placed op (.wait c :: l) w s) = true := by cases c <;> exact hc
  obtain ⟨w, hrun⟩ := h.micro hplaced
  obtain ⟨hf, hq, _⟩ := h
  rw [microStep, if_pos (hplaced w)] at hrun
  exact ⟨hf, hq, _, hrun⟩

/-- The payload byte is read, and its operation follows (R242, R244). -/
theorem QuietRun.readPayload {k : PayloadUse} {d : DataStage} (h : QuietRun op (.readPayload k :: l) s t)
    (hd : s.ep0 = some d) : QuietRun (opWithArg op d.first) (payloadOps k d.first s ++ l) s t := by
  obtain ⟨w, hrun⟩ := h.micro fun w => by simp [canMove, placed, hd]
  obtain ⟨hf, hq, _⟩ := h
  have hep0 : (placed op (.readPayload k :: l) w s).ep0 = some d := hd
  have hsame : SameBlock s (placed op (.readPayload k :: l) w s) := {}
  rw [microStep_readPayload hep0, payloadOps_congr hsame] at hrun
  exact ⟨hf, hq, _, hrun⟩

/-- The reply ends the run (R241). -/
theorem QuietRun.reply {w : Word24} {r : ReplyKind} (h : QuietRun (.dispatch w) (.reply r :: l) s t) :
    AgreesButWatch t (answered w r { s with seq := .ready }) := by
  obtain ⟨v, n, _, rfl⟩ := h.micro fun _ => rfl
  rw [run_ready rfl]
  rfl

end

/-! ### A configuration command up to its payload -/

/-- Every command has at least one micro-operation. -/
theorem dispatchOps_ne_nil (i : Instr) (s : State) : dispatchOps i s ≠ [] := by
  cases i with
  | setAlt a =>
    simp only [dispatchOps, setAltOps]
    split <;> simp
  | volt0 _ => simp [dispatchOps, volt0Ops, configCommandOps]
  | volt1 _ => simp [dispatchOps, volt1Ops, configCommandOps]
  | rate _ => simp [dispatchOps, rateOps, configCommandOps]
  | nch _ => simp [dispatchOps, nchOps, configCommandOps]
  | _ => exact List.cons_ne_nil _ _

/-- A command the block takes is followed from the start of its sequence (R240). -/
theorem exec_quietRun (i : Instr) {s : State} (hs : CanTake s) (hq : quiet s.inputs = true) :
    ∃ t, exec i s = .next t ∧
      QuietRun (.dispatch (encode s.params i)) (dispatchOps i s) { s with pendingSetup := none } t := by
  have hexec : exec i s = .next _ := (exec_eq i s).trans (runRequest_of_canTake hs)
  have hrun := runsTo_of_exec hexec
  refine ⟨_, hexec, hs.1, hq, s.watch, ?_⟩
  obtain ⟨m, rest, hops⟩ := List.exists_cons_of_ne_nil (dispatchOps_ne_nil i s)
  rw [counted_of_quiet hq, hops] at hrun
  rw [counted_of_quiet hq, hops]
  exact hrun

/-- The block with the prologue made and the payload just arrived (R243, R244). -/
def withPayload (d : DataStage) (l : List Input) (s : State) : State :=
  { afterPrologue (taken l s) with ep0 := some d }

/-- The prologue looks at neither the data stage nor the inputs. -/
theorem withPayload_eq (d : DataStage) (l : List Input) (s : State) :
    withPayload d l s = { afterPrologue { s with pendingSetup := none } with ep0 := some d, inputs := l } := by
  by_cases h : s.acq = .running ∨ s.params.ledOnIdleConfig = true <;>
    simp only [withPayload, afterPrologue, taken, h, if_true, if_false] <;> rfl

@[simp] theorem afterPrologue_params (s : State) : (afterPrologue s).params = s.params := by
  unfold afterPrologue; split <;> rfl

@[simp] theorem afterPrologue_seq (s : State) : (afterPrologue s).seq = s.seq := by
  unfold afterPrologue; split <;> rfl

@[simp] theorem afterPrologue_pm (s : State) : (afterPrologue s).pm = s.pm := by
  unfold afterPrologue; split <;> rfl

@[simp] theorem afterPrologue_ep0 (s : State) : (afterPrologue s).ep0 = s.ep0 := by
  unfold afterPrologue; split <;> rfl

@[simp] theorem afterPrologue_inputs (s : State) : (afterPrologue s).inputs = s.inputs := by
  unfold afterPrologue; split <;> rfl

/-- A configuration command whose data stage comes when it is awaited: its setting operation is next (R242 to R245). -/
theorem exec_configCommand {i : Instr} {k : PayloadUse} {s : State} {d : DataStage} {l : List Input}
    (hi : dispatchOps i s = configCommandOps k s) (hs : CanTake s) (hd : PayloadComes d l s) :
    ∃ t, exec i s = .next t ∧
      QuietRun (.dispatch (setArg (encode s.params i) d.first))
        (payloadOps k d.first (withPayload d l s) ++ [.reply .handled]) (withPayload d l s) t := by
  obtain ⟨hep0, hinputs, hquiet⟩ := hd
  obtain ⟨t, hexec, hrun⟩ := exec_quietRun i hs (by rw [hinputs]; rfl)
  rw [hi] at hrun
  have hstopped := QuietRun.prologue (s := { s with pendingSetup := none }) hrun
  have hcame := hstopped.dataStage ⟨(afterPrologue_ep0 _).trans hep0, (afterPrologue_inputs _).trans hinputs, hquiet⟩
  rw [← withPayload_eq] at hcame
  exact ⟨t, hexec, (hcame.wait rfl).readPayload rfl⟩

/-! ### RATE -/

@[simp] theorem afterSetSampleRate_seq (p : Profile) (s : State) : (afterSetSampleRate p s).seq = s.seq := by
  unfold afterSetSampleRate afterRecomputeIso; split <;> rfl

@[simp] theorem afterSetSampleRate_pm (p : Profile) (s : State) :
    (afterSetSampleRate p s).pm = writeBytes 0 (programImage p) s.pm := by
  unfold afterSetSampleRate afterRecomputeIso; split <;> rfl

/-- A load does not look at the data stage, which the reply clears. -/
theorem answered_afterSetSampleRate (w : Word24) (r : ReplyKind) (p : Profile) (e : Option DataStage) (s : State) :
    answered w r (afterSetSampleRate p { s with ep0 := e }) = answered w r (afterSetSampleRate p s) := by
  simp only [afterSetSampleRate, afterRecomputeIso]
  cases s.cfg.alt <;> rfl

/-- An accepted RATE leaves the profile loaded and answers (R247, R153). -/
theorem exec_rate_accepted (arg : Byte) {s : State} {d : DataStage} {l : List Input} {p : Profile}
    (hsize : 120 ≤ s.params.progMemBytes) (hs : CanTake s) (hd : PayloadComes d l s)
    (hp : lookupProfile s.params d.first = some p) :
    ∃ t, exec (.rate arg) s = .next t ∧
      AgreesButWatch t (answered (mkWord kindVendorOut s.params.reqRate d.first) .handled
        (afterSetSampleRate p (afterPrologue (taken l s)))) := by
  obtain ⟨t, hexec, hrun⟩ := exec_configCommand (i := .rate arg) rfl hs hd
  have hparams : (withPayload d l s).params = s.params := afterPrologue_params (taken l s)
  have hops : payloadOps .rate d.first (withPayload d l s) =
      loadProfileOps (withPayload d l s).params (withPayload d l s).cfg.alt p := by
    simp only [payloadOps, setSampleRateOps, hparams, hp]
  rw [hops] at hrun
  have hloaded := (hrun.loadProfile (by rwa [hparams])).reply
  have hready : (afterSetSampleRate p (withPayload d l s)).seq = .ready :=
    (afterSetSampleRate_seq p _).trans ((afterPrologue_seq (taken l s)).trans hs.2)
  rw [← hready, encode, setArg_mkWord] at hloaded
  rw [← answered_afterSetSampleRate]
  exact ⟨t, hexec, hloaded⟩

/-- The image of a profile, read back (R156). -/
theorem read_programImage (p : Profile) (m : Memory) :
    (∀ i, i < 24 → Memory.read i (writeBytes 0 (programImage p) m) = p.image[i]?) ∧
    (∀ i, 24 ≤ i → i < 120 → Memory.read i (writeBytes 0 (programImage p) m) = some 0) ∧
    (∀ i, 120 ≤ i → Memory.read i (writeBytes 0 (programImage p) m) = Memory.read i m) := by
  simp only [read_writeBytes, programImage_length, Nat.zero_le, true_and, Nat.zero_add, Nat.sub_zero]
  refine ⟨fun i hi => ?_, fun i hlo hhi => ?_, fun i hi => if_neg (by omega)⟩
  · rw [if_pos (by omega), programImage, List.getElem?_append_left (by simpa using hi), Vector.getElem?_toList]
  · rw [if_pos hhi, programImage, List.getElem?_append_right (by simpa using hlo), Vector.length_toList,
      List.getElem?_replicate_of_lt (by omega)]

/-- Settles O28: the load writes the whole image from index 0 on (R153), and nothing else of the command writes program
memory. -/
theorem rateCommandLeavesTheImage : Obligations.RateCommandLeavesTheImage := by
  intro arg s d l p hsize hs hd hp
  obtain ⟨t, hexec, ht⟩ := exec_rate_accepted arg hsize hs hd hp
  have hpm : t.pm = writeBytes 0 (programImage p) s.pm := by
    rw [ht]
    exact (afterSetSampleRate_pm p _).trans (congrArg _ (afterPrologue_pm (taken l s)))
  exact ⟨t, hexec, hpm ▸ read_programImage p s.pm⟩

end Sys2Proof.Machine
end

section
/-! PROOFS. The interface selector: the auto-adjust bit. -/

namespace Sys2Proof.Machine

/-- The bit compares the exact product with the threshold, strictly (R172). -/
@[simp] theorem aadj_eq_true_iff (c : AcqConfig) : aadj c = true ↔ c.rateKsps * countNat c.nch < 24000 :=
  decide_eq_true_iff

/-- Settles O31: the threshold on the rate is 24000 divided by the channel count (R173). -/
theorem autoAdjustThresholds : Obligations.AutoAdjustThresholds := by
  intro c
  refine ⟨aadj_eq_true_iff c, fun htwo => ?_, fun hone => ?_⟩
  · rw [aadj_eq_true_iff, htwo, countNat]
    omega
  · rw [aadj_eq_true_iff, hone, countNat, Nat.mul_one]

end Sys2Proof.Machine
end

section
/-! PROOFS. The reset sequence with the idle-gate wait: what is left to do never opens a lock-up window, through every
interleaving (R195, R196). -/

namespace Sys2Proof.Machine

/-! ### Where a lock-up is admitted (R195) -/

/-- A sequence once misordered stays so (R195 (ii)). -/
theorem foldl_progressAfter_broken (ks : List ResetStep) :
    ks.foldl (fun p k => progressAfter k p) .broken = .broken := by
  induction ks with
  | nil => rfl
  | cons k ks ih => exact ih

/-- With the writes `l` still due, the writes made are misordered exactly when they are not the first of `l`. -/
theorem foldl_progressAfter_due (ks l : List ResetStep) :
    ks.foldl (fun p k => progressAfter k p) (.due l) = .broken ↔ ¬ ks <+: l := by
  induction ks generalizing l with
  | nil => simp
  | cons k ks ih =>
    rw [List.foldl_cons, progressAfter_due]
    cases l with
    | nil => simp [foldl_progressAfter_broken]
    | cons k' l =>
      by_cases hk : k = k'
      · subst hk
        rw [takeDue_same, ih]
        simp [List.cons_prefix_cons]
      · simp [takeDue_other hk, foldl_progressAfter_broken, List.cons_prefix_cons, hk]

theorem foldl_progressAfter_outside (ks : List ResetStep) :
    ks.foldl (fun p k => progressAfter k p) .outside = .broken ↔ ¬ ks <+: resetSteps := by
  cases ks with
  | nil => simp
  | cons k ks => exact foldl_progressAfter_due (k :: ks) resetSteps

theorem lockupAdmitted_iff (p : WfgPhase) (k : ResetStep) (w : FifoWatch) :
    lockupAdmitted p k w = true ↔
      w.delayed = false ∨ progressAfter k w.progress = .broken ∨ (k = .firstPulse ∧ p ≠ .quiescent) := by
  simp [lockupAdmitted, or_assoc]

/-- Settles O57: the window after a write of the sequence is R195's condition, and the lock-up step has the window as its
guard. -/
theorem lockupAdmittedWhereTheSequenceIsBroken : Obligations.LockupAdmittedWhereTheSequenceIsBroken :=
  ⟨fun k s => ⟨lockupAdmitted_iff s.wfgPhase k s.watch, rfl⟩, foldl_progressAfter_outside,
    fun _ _ _ => ⟨rfl, rfl, rfl⟩, fun s => ⟨fun hz => by simp [envStep, hz], fun hz => by simp [envStep, hz]⟩⟩

/-! ### Sequences that open no window (R196) -/

/-- The FIFO hardware's view outside a reset sequence, the last write followed by its delay. -/
def idleWatch : FifoWatch := { delayed := true, progress := .outside, hazard := false }

/-- Its view in a reset sequence followed as mandated, with the writes `l` still due. -/
def dueWatch (l : List ResetStep) : FifoWatch := { delayed := true, progress := .due l, hazard := false }

/-- Its view at the idle gate: of the reset sequence, the abort has been made (R191). -/
def gateWatch : FifoWatch := dueWatch (resetSteps.drop 1)

/-- What a plain micro-operation is to the FIFO hardware, the generator in phase `p`. -/
def actWatch (a : Act) (p : WfgPhase) (w : FifoWatch) : FifoWatch :=
  match a with
  | .wr _ _ => watchWrite w
  | .writeIsoPkts => watchWrite w
  | .resetWrite k => watchReset p k w
  | .sync => { w with delayed := true }
  | .emptyFifos => watchEnd w
  | _ => w

theorem actEffect_watch (a : Act) (s : State) : (actEffect a s).watch = actWatch a s.wfgPhase s.watch := by
  cases a with
  | pmWrite v => rcases pmWrite_cases v s with ⟨_, h⟩ | ⟨_, h⟩ <;> simp [actEffect, actWatch, h]
  | setVr ch c => cases ch <;> rfl
  | _ => rfl

/-- With the FIFO hardware's view `w` and the generator in phase `p`, the sequence opens no lock-up window: it waits at the
gate only right after the abort, and is held, expanded or ended only outside a reset sequence. The generator may be in any
phase after a micro-operation, but past the gate it is quiescent. -/
def RaceFree : WfgPhase → FifoWatch → List Micro → Prop
  | _, w, [] => w = idleWatch
  | p, w, .act a :: l => (actWatch a p w).hazard = false ∧ ∀ p', RaceFree p' (actWatch a p w) l
  | _, w, .wait .gate :: l => w = gateWatch ∧ RaceFree .quiescent w l
  | _, w, .raise f :: _ => w = idleWatch ∧ f ≠ .fifoLockup
  | _, w, _ :: l => w = idleWatch ∧ ∀ p, RaceFree p w l

/-- Where a write opens no window, it opens none at a quiescent generator either (R195 (iii)). -/
theorem actWatch_quiescent {a : Act} {p : WfgPhase} {w : FifoWatch} (hz : (actWatch a p w).hazard = false) :
    actWatch a .quiescent w = actWatch a p w := by
  cases a with
  | resetWrite k =>
    have hzero : lockupAdmitted p k w = false := hz
    have hquiescent : lockupAdmitted .quiescent k w = false := by simp_all [lockupAdmitted]
    simp only [actWatch, watchReset, hzero, hquiescent]
  | _ => rfl

/-- A generator that reaches its idle gate opens no window (R61). -/
theorem RaceFree.quiescent {p : WfgPhase} {w : FifoWatch} {l : List Micro} (h : RaceFree p w l) :
    RaceFree .quiescent w l := by
  match l, h with
  | [], h => exact h
  | .act _ :: _, ⟨hz, hnext⟩ =>
    have hsame := actWatch_quiescent hz
    exact ⟨hsame ▸ hz, hsame ▸ hnext⟩
  | .wait .gate :: _, h => exact h
  | .wait .payload :: _, h => exact h
  | .wait .wake :: _, h => exact h
  | .readPayload _ :: _, h => exact h
  | .sampleSpeed _ :: _, h => exact h
  | .reply _ :: _, h => exact h
  | .raise _ :: _, h => exact h

/-- The sequence `c`, begun outside a reset sequence, opens no window and ends outside one. -/
def Harmless (c : List Micro) : Prop :=
  ∀ l, (∀ p, RaceFree p idleWatch l) → ∀ p, RaceFree p idleWatch (c ++ l)

theorem Harmless.raceFree {c : List Micro} (h : Harmless c) (p : WfgPhase) : RaceFree p idleWatch c := by
  simpa using h [] (fun _ => rfl) p

theorem harmless_nil : Harmless [] := fun _ h => h

theorem Harmless.append {c c' : List Micro} (h : Harmless c) (h' : Harmless c') : Harmless (c ++ c') :=
  fun l hl p => by rw [List.append_assoc]; exact h _ (h' l hl) p

/-- A plain micro-operation that the FIFO hardware does not see may come first. -/
theorem Harmless.act {a : Act} {c : List Micro} (h : Harmless c)
    (ha : ∀ p, actWatch a p idleWatch = idleWatch := by exact fun _ => rfl) : Harmless (.act a :: c) := fun l hl p =>
  ⟨by rw [ha]; rfl, by rw [ha]; exact h l hl⟩

/-- So may a micro-operation that the sequence is held at, expands to another, or replies with, other than the gate. -/
theorem Harmless.cons {m : Micro} {c : List Micro} (h : Harmless c)
    (hm : ∀ p w l, RaceFree p w (m :: l) = (w = idleWatch ∧ ∀ p, RaceFree p w l) := by exact fun _ _ _ => rfl) :
    Harmless (m :: c) := fun l hl p => by
  rw [List.cons_append, hm]
  exact ⟨rfl, h l hl⟩

theorem harmless_raise {f : StickyFault} (hf : f ≠ .fifoLockup) : Harmless [.raise f] := fun _ _ _ => ⟨rfl, hf⟩

/-- A register write outside the reset sequence opens no window, and its delay follows (R90, R320). -/
theorem harmless_wrSync (r : Reg) (v : Byte) : Harmless (wrSync r v) := fun _ hl _ =>
  ⟨rfl, fun _ => ⟨rfl, hl⟩⟩

theorem harmless_recomputeIso (a : Alt) : Harmless (recomputeIsoOps a) := by
  cases a with
  | bulk => exact harmless_nil
  | iso => exact fun _ hl _ => ⟨rfl, fun _ => ⟨rfl, hl⟩⟩

/-- The next write of the mandated sequence, with its delay (R191, R196). -/
theorem raceFree_resetSync {p : WfgPhase} {k : ResetStep} {w : FifoWatch} {due : List ResetStep} {l : List Micro}
    (hd : w.delayed = true) (ho : progressAfter k w.progress = .due due) (hp : k = .firstPulse → p = .quiescent)
    (h : ∀ p, RaceFree p (dueWatch due) l) : RaceFree p w (resetSync k ++ l) := by
  have hw : actWatch (.resetWrite k) p w = { delayed := false, progress := .due due, hazard := false } :=
    watchReset_mandated hd ho hp
  refine ⟨by rw [hw], fun _ => ?_⟩
  rw [hw]
  exact ⟨rfl, h⟩

/-- The writes of the reset sequence after the first pulse. -/
theorem raceFree_resetSync_due {k : ResetStep} {due : List ResetStep} {l : List Micro} (hk : k ≠ .firstPulse)
    (h : ∀ p, RaceFree p (dueWatch due) l) (p : WfgPhase) : RaceFree p (dueWatch (k :: due)) (resetSync k ++ l) :=
  raceFree_resetSync rfl (takeDue_same k due) (fun hfirst => absurd hfirst hk) h

/-- `start()` past the idle gate (R191, R212): the first pulse comes at a quiescent generator. -/
theorem raceFree_startTail (P : Params) (c : AcqConfig) {l : List Micro} (h : ∀ p, RaceFree p idleWatch l) :
    RaceFree .quiescent gateWatch (startTail P c ++ l) := by
  have hcount : Harmless (wrSync .wfgTcH (hiByte P.tcStart) ++ wrSync .wfgTcL (loByte P.tcStart)
      ++ wrSync .wfgTrig (trigCode P c.alt) ++ [.act (.setLed .streaming 0), .act (.setAcq .running)]) :=
    (((harmless_wrSync _ _).append (harmless_wrSync _ _)).append (harmless_wrSync _ _)).append harmless_nil.act.act
  have hend (p : WfgPhase) := hcount l h p
  simp only [startTail, List.append_assoc] at hend ⊢
  exact raceFree_resetSync rfl rfl (fun _ => rfl) <|
    raceFree_resetSync_due (by decide) <| raceFree_resetSync_due (by decide) <|
    raceFree_resetSync_due (by decide) <| raceFree_resetSync_due (by decide) <|
    raceFree_resetSync_due (by decide) <| raceFree_resetSync_due (by decide) <|
    raceFree_resetSync_due (by decide) fun _ => ⟨rfl, hend⟩

/-- `start()` with the idle-gate wait (R212). -/
theorem harmless_start {P : Params} (hwait : P.idleGateWait = true) (c : AcqConfig) : Harmless (startOps P c) := by
  intro l hl p
  simp only [startOps_eq, hwait, if_true, List.append_assoc]
  exact raceFree_resetSync rfl rfl (fun hk => by cases hk) fun _ => ⟨rfl, raceFree_startTail P c hl⟩

/-! ### The sequences of the block -/

theorem harmless_stop (P : Params) (a : Alt) : Harmless (stopOps P a) :=
  ((harmless_wrSync _ _).append (harmless_wrSync _ _)).append harmless_nil.act

theorem harmless_prologue (s : State) : Harmless (prologueOps s) := by
  refine (harmless_stop _ _).append ?_
  split
  · exact harmless_nil.act
  · exact harmless_nil

theorem harmless_pmWrites (bytes : List Byte) : Harmless (bytes.map (fun v => .act (.pmWrite v))) := by
  induction bytes with
  | nil => exact harmless_nil
  | cons v bytes ih => exact ih.act

theorem harmless_loadProfile (P : Params) (a : Alt) (p : Profile) : Harmless (loadProfileOps P a p) := by
  have htiming : Harmless (wrSync .ifconfig p.ifcfg ++ wrSync .wfgAbort P.abortVal) :=
    (harmless_wrSync _ _).append (harmless_wrSync _ _)
  have hcontrol := (htiming.append (harmless_wrSync .wfgReadycfg 0)).append (harmless_wrSync .wfgCtlcfg 0)
  have himage := (hcontrol.append (harmless_nil.act (a := .pmRewind))).append (harmless_pmWrites (programImage p))
  exact (himage.append harmless_nil.act.act).append (harmless_recomputeIso a)

theorem harmless_channelCount (P : Params) (a : Alt) (n : ChannelCount) : Harmless (channelCountOps P a n) :=
  (((harmless_wrSync _ _).append (harmless_wrSync _ _)).append harmless_nil.act).append (harmless_recomputeIso a)

/-- What a payload byte expands to (R242); a start waits for the gate. -/
theorem harmless_payload {s : State} (hwait : s.params.idleGateWait = true) (k : PayloadUse) (b : Byte) :
    Harmless (payloadOps k b s) := by
  cases k with
  | voltage ch =>
    simp only [payloadOps, setVoltageOps]
    split
    · exact harmless_nil
    · exact (harmless_wrSync _ _).append harmless_nil.act
  | rate =>
    simp only [payloadOps, setSampleRateOps]
    split
    · exact harmless_nil
    · exact harmless_loadProfile _ _ _
  | channelCount =>
    simp only [payloadOps, setChannelCountOps]
    split
    · exact harmless_nil
    · exact harmless_channelCount _ _ _
  | startStop =>
    simp only [payloadOps, startStopOps, startCommandOps]
    split_ifs
    · exact harmless_raise (by decide)
    · exact harmless_start hwait _
    · exact harmless_stop _ _

theorem harmless_awaitPayload (k : PayloadUse) : Harmless [.wait .payload, .readPayload k, .reply .handled] :=
  harmless_nil.cons.cons.cons

theorem harmless_selectInterface (a : Alt) : Harmless (selectInterfaceOps a) := harmless_nil.cons.act

theorem harmless_endpoint (P : Params) (sp : Speed) (a : Alt) : Harmless (endpointOps P sp a) := by
  have hwrites (r₁ r₂ r₃ r₄ : Reg) (v₁ v₂ v₃ v₄ : Byte) :
      Harmless (wrSync r₁ v₁ ++ wrSync r₂ v₂ ++ wrSync r₃ v₃ ++ wrSync r₄ v₄) :=
    (((harmless_wrSync _ _).append (harmless_wrSync _ _)).append (harmless_wrSync _ _)).append (harmless_wrSync _ _)
  cases a with
  | bulk => exact hwrites _ _ _ _ _ _ _ _
  | iso => exact (hwrites _ _ _ _ _ _ _ _).append (harmless_recomputeIso .iso)

theorem harmless_configCommand (k : PayloadUse) (s : State) : Harmless (configCommandOps k s) :=
  (harmless_prologue s).append (harmless_awaitPayload k)

theorem harmless_setAlt (a : Byte) (s : State) : Harmless (setAltOps a s) := by
  unfold setAltOps
  split
  · exact harmless_raise (by decide)
  · exact ((harmless_prologue s).append (harmless_selectInterface _)).append harmless_nil.cons

theorem harmless_dispatch (i : Instr) (s : State) : Harmless (dispatchOps i s) := by
  cases i with
  | volt0 _ => exact harmless_configCommand (.voltage .ch0) s
  | volt1 _ => exact harmless_configCommand (.voltage .ch1) s
  | rate _ => exact harmless_configCommand .rate s
  | nch _ => exact harmless_configCommand .channelCount s
  | acq _ => exact harmless_awaitPayload .startStop
  | vendorUnknown _ _ => exact harmless_nil.cons
  | vendorIn _ _ => exact harmless_raise (by decide)
  | setAlt a => exact harmless_setAlt a s
  | getAlt _ => exact harmless_nil.cons.act

/-- The suspend hook past its first line (R288). -/
theorem harmless_resume : Harmless [.wait .wake, .act .resume] := harmless_nil.act.cons

theorem harmless_initialize (P : Params) (r : Option Profile) : Harmless (initializeOps P r) := by
  have hcount : Harmless ([.act .setDefaults] ++ channelCountOps P .bulk .two) :=
    harmless_nil.act.append (harmless_channelCount _ _ _)
  cases r with
  | none => exact ((hcount.append harmless_nil).append (harmless_selectInterface _)).append harmless_nil.act
  | some p =>
    exact ((hcount.append (harmless_loadProfile _ _ _)).append (harmless_selectInterface _)).append harmless_nil.act

/-! ### Along every turn -/

/-- What every turn keeps where the sequence waits for the gate: no lock-up has come, no window is open, and what is left
to do opens none. -/
structure Guarded (s : State) : Prop where
  wait : s.params.idleGateWait = true
  clean : s.fault ≠ some .fifoLockup
  window : s.watch.hazard = false
  ahead : RaceFree s.wfgPhase s.watch (opsLeft s)

theorem Guarded.closeHazard_eq {s : State} (h : Guarded s) : closeHazard s = s := by
  rw [closeHazard, ← h.window]

theorem opsLeft_seqAfter {s : State} {op : Op} {l : List Micro} (h : s.seq = seqAfter op l) : opsLeft s = l := by
  cases l <;> simp [opsLeft, h]

/-- An operation begins, goes on or ends with nothing changed that the FIFO hardware sees. -/
theorem Guarded.goOn {s t : State} (h : Guarded s) (hw : t.watch = s.watch) (hP : t.params = s.params)
    (hf : t.fault ≠ some .fifoLockup) (ha : RaceFree t.wfgPhase s.watch (opsLeft t)) : Guarded t :=
  ⟨hP ▸ h.wait, hf, hw ▸ h.window, hw ▸ ha⟩

theorem Guarded.envStep {s : State} (h : Guarded s) (e : EnvEvent) : Guarded (envStep e s) := by
  cases e with
  | lockup => simpa [Machine.envStep, h.window] using h
  | wfgQuiesce =>
    simp only [Machine.envStep]
    split
    · exact h.goOn rfl rfl h.clean h.ahead.quiescent
    · exact h
  | wfgFinish =>
    simp only [Machine.envStep]
    split
    · exact h.goOn rfl rfl h.clean h.ahead.quiescent
    · exact h
  | fifoFill f =>
    simp only [Machine.envStep]
    split
    · cases f <;> exact h.goOn rfl rfl h.clean h.ahead
    · exact h
  | fifoDrain f => cases f <;> exact h.goOn rfl rfl h.clean h.ahead
  | setSpeed sp => exact h.goOn rfl rfl h.clean h.ahead
  | suspend => exact h.goOn rfl rfl h.clean h.ahead
  | wake => exact h.goOn rfl rfl h.clean h.ahead
  | _ =>
    simp only [Machine.envStep]
    split
    · exact h.goOn rfl rfl h.clean h.ahead
    · exact h

theorem Guarded.microStep {s : State} (h : Guarded s) {op : Op} {m : Micro} {rest : List Micro}
    (hs : s.seq = .busy op (m :: rest)) : Guarded (microStep op m rest s) := by
  have hahead : RaceFree s.wfgPhase s.watch (m :: rest) := opsLeft_busy hs ▸ h.ahead
  have hclean : s.fault ≠ some .fifoLockup := h.clean
  cases m with
  | act a =>
    obtain ⟨hzero, hnext⟩ := hahead
    rw [← actEffect_watch] at hzero hnext
    obtain ⟨hP, _, _, _, _, _, hfault⟩ := actEffect_keeps a s
    simp only [Machine.microStep, h.closeHazard_eq]
    refine ⟨hP ▸ h.wait, ?_, hzero, ?_⟩
    · rcases hfault with hkeep | hpm
      · exact hkeep ▸ hclean
      · simp [hpm]
    · rw [opsLeft_seqAfter rfl]
      exact hnext _
  | wait c =>
    simp only [Machine.microStep, h.closeHazard_eq]
    split
    · next hc =>
      refine h.goOn rfl rfl hclean ?_
      rw [opsLeft_seqAfter rfl]
      cases c with
      | gate =>
        have hgate : s.wfgPhase = .quiescent := by simpa [waitHolds, gate] using hc
        exact hgate ▸ hahead.2
      | payload => exact hahead.2 _
      | wake => exact hahead.2 _
    · exact h
  | readPayload k =>
    obtain ⟨hidle, hnext⟩ := hahead
    simp only [Machine.microStep, h.closeHazard_eq]
    split
    · exact h
    · refine h.goOn rfl rfl hclean ?_
      rw [opsLeft_seqAfter rfl, hidle]
      exact harmless_payload h.wait k _ rest (hidle ▸ hnext) _
  | sampleSpeed a =>
    obtain ⟨hidle, hnext⟩ := hahead
    simp only [Machine.microStep, h.closeHazard_eq]
    refine h.goOn rfl rfl hclean ?_
    rw [opsLeft_seqAfter rfl, hidle]
    exact harmless_endpoint _ _ a rest (hidle ▸ hnext) _
  | reply r =>
    obtain ⟨hidle, _⟩ := hahead
    simp only [Machine.microStep, h.closeHazard_eq]
    cases op <;> exact h.goOn rfl rfl hclean hidle
  | raise f =>
    obtain ⟨hidle, hf⟩ := hahead
    simp only [Machine.microStep, h.closeHazard_eq]
    exact h.goOn rfl rfl (by simpa using hf) hidle

theorem Guarded.mainLoopStep {s : State} (h : Guarded s) (hs : s.seq = .ready) : Guarded (mainLoopStep s) := by
  have hidle : s.watch = idleWatch := by simpa [opsLeft_ready hs, RaceFree] using h.ahead
  have hbegin {t : State} (hw : t.watch = s.watch) (hP : t.params = s.params) (hf : t.fault = s.fault)
      (ht : Harmless (opsLeft t)) : Guarded t :=
    h.goOn hw hP (hf ▸ h.clean) (hidle ▸ ht.raceFree _)
  unfold Machine.mainLoopStep
  split
  · exact hbegin rfl rfl rfl (harmless_initialize _ _)
  · next i _ => exact hbegin rfl rfl rfl (harmless_dispatch i s)
  · exact hbegin rfl rfl rfl (harmless_raise (by decide))
  · exact hbegin rfl rfl rfl harmless_resume.act
  · exact h

theorem Guarded.tick {s s' : State} (h : Guarded s) (ht : tick s = some s') : Guarded s' := by
  obtain ⟨hf, ⟨d, e, l, _, rfl⟩ | ⟨hs, _, rfl⟩ | ⟨op, hs, rfl⟩ | ⟨op, m, rest, hs, _, rfl⟩⟩ := tick_cases ht
  · have hl : Guarded { s with inputs := l } := h.goOn rfl rfl h.clean h.ahead
    exact hl.envStep e
  · have hc : Guarded (counted s) := h.goOn rfl rfl h.clean h.ahead
    exact hc.mainLoopStep hs
  · have hdone : RaceFree s.wfgPhase s.watch [] := opsLeft_busy hs ▸ h.ahead
    exact h.goOn rfl rfl h.clean hdone
  · have hc : Guarded (counted s) := h.goOn rfl rfl h.clean h.ahead
    exact hc.microStep hs

/-! ### Where a step stops -/

/-- What `NoRace` says of the FIFO hardware's view, as one equation. -/
theorem noRace_iff (s : State) : NoRace s ↔
    s.params.idleGateWait = true ∧ s.watch = (if atGate s then gateWatch else idleWatch) ∧
      s.fault ≠ some .fifoLockup := by
  constructor
  · rintro ⟨hwait, hdelay, hwindow, horder, hclean⟩
    have hview : s.watch = { delayed := true, progress := s.watch.progress, hazard := false } := by
      rw [← hdelay, ← hwindow]
    refine ⟨hwait, ?_, hclean⟩
    rw [hview, horder]
    split <;> rfl
  · rintro ⟨hwait, hview, hclean⟩
    refine ⟨hwait, ?_, ?_, ?_, hclean⟩ <;> rw [hview] <;> split <;> rfl

/-- Where a step may leave the block, what is left to do opens no window (R33, R91). -/
theorem raceFree_of_rests {s : State} (hwait : s.params.idleGateWait = true)
    (hview : s.watch = if atGate s then gateWatch else idleWatch) (h : Rests s) :
    RaceFree s.wfgPhase s.watch (opsLeft s) := by
  rcases h with ⟨hs, _⟩ | ⟨w, k, hs, _⟩ | ⟨w, hs, _⟩ | ⟨hs, _⟩
  · have hidle : s.watch = idleWatch := by simpa [atGate, hs] using hview
    rw [opsLeft_ready hs, hidle]
    rfl
  · have hidle : s.watch = idleWatch := by simpa [atGate, hs] using hview
    rw [opsLeft_busy hs, hidle]
    exact (harmless_awaitPayload k).raceFree _
  · rw [startOps_drop hwait] at hs
    have hgate : s.watch = gateWatch := by simpa [atGate, hs] using hview
    rw [opsLeft_busy hs, hgate]
    exact ⟨rfl, raceFree_startTail s.params s.cfg (harmless_nil.cons (m := .reply .handled)).raceFree⟩
  · have hidle : s.watch = idleWatch := by simpa [atGate, hs] using hview
    rw [opsLeft_busy hs, hidle]
    exact harmless_resume.raceFree _

theorem guarded_of_noRace {s : State} (hinv : BlockInv s) (hf : s.fault = none) (h : NoRace s) : Guarded s := by
  obtain ⟨hwait, hview, hclean⟩ := (noRace_iff s).mp h
  refine ⟨hwait, hclean, h.window, ?_⟩
  cases hb : s.booted with
  | true => exact raceFree_of_rests hwait hview (hinv.rests hb hf)
  | false => exact raceFree_of_rests hwait hview (.inl (hinv.unbooted hb))

/-- A guarded block that is `Ready` or held meets the conditions again. -/
theorem Guarded.noRace {s : State} (h : Guarded s) (hstop : s.seq = .ready ∨ canMove s = false) : NoRace s := by
  refine (noRace_iff s).mpr ⟨h.wait, ?_, h.clean⟩
  have hahead := h.ahead
  cases hs : s.seq with
  | ready =>
    rw [opsLeft_ready hs] at hahead
    simpa [atGate, hs, RaceFree] using hahead
  | busy op l =>
    have hheld : canMove s = false := hstop.resolve_left (by simp [hs])
    rw [opsLeft_busy hs] at hahead
    match l, hahead with
    | [], _ => simp [canMove, hs] at hheld
    | .act _ :: _, _ => simp [canMove, hs] at hheld
    | .sampleSpeed _ :: _, _ => simp [canMove, hs] at hheld
    | .reply _ :: _, _ => simp [canMove, hs] at hheld
    | .raise _ :: _, _ => simp [canMove, hs] at hheld
    | .wait .gate :: _, ⟨hview, _⟩ => simpa [atGate, hs] using hview
    | .wait .payload :: _, ⟨hview, _⟩ => simpa [atGate, hs] using hview
    | .wait .wake :: _, ⟨hview, _⟩ => simpa [atGate, hs] using hview
    | .readPayload _ :: _, ⟨hview, _⟩ => simpa [atGate, hs] using hview

/-- Settles O40: every turn keeps the block guarded, and a step stops where that gives the conditions again. A fault other
than a lock-up leaves the sequencer `Ready` (`OnTrack`). -/
theorem noLockupWithTheIdleGateWait : Obligations.NoLockupWithTheIdleGateWait := by
  intro s t hinv h ht
  cases hf : s.fault with
  | some f => exact absurd ((step_faulted hf).symm.trans ht) (stopped_ne_next f t)
  | none =>
    have hguard : Guarded t := step_keeps (I := Guarded) (fun _ _ hs => hs.tick) (guarded_of_noRace hinv hf h) ht
    have htrack : OnTrack t := step_keeps (I := OnTrack) (fun _ _ hs => hs.tick) (hinv.onTrack hf) ht
    refine hguard.noRace ?_
    by_cases hft : t.fault = none
    · exact (step_ends (hinv.seqCost_le hf) ht).imp_right (canMove_of_turn_none hft)
    · exact .inl (htrack.stopped hft)

/-- Settles O41: at power-on the FIFO hardware is outside a reset sequence, and `State.reset` is a power-on state. -/
theorem noRaceAtReset : Obligations.NoRaceAtReset := by
  have hpowerOn (P : Params) (sp : Speed) (hwait : P.idleGateWait = true) : NoRace (State.powerOn P sp) :=
    (noRace_iff _).mpr ⟨hwait, rfl, nofun⟩
  exact ⟨hpowerOn, hpowerOn defaultParams .high rfl⟩

end Sys2Proof.Machine
end

section
/-! PROOFS. A start (R191, R212): it is followed to the idle gate, held there or let past, and to its end; without the wait a
lock-up that comes with the first pulse is followed too (R195). -/

namespace Sys2Proof.Machine

/-! ### The reset sequence and the start, as state updates -/

/-- A start that has made its abort, with the generator in phase `p` since (R191). -/
def afterAbort (p : WfgPhase) (s : State) : State :=
  { s with wfgPhase := p, trace := s.trace ++ [.wr .wfgAbort s.params.abortVal] }

/-- A payload of 1 starts, unless the block runs and a start while running is a fault (R213, R249). -/
theorem payloadOps_start {b : Byte} {s : State} (hb : b = 1)
    (hstart : ¬ (s.acq = .running ∧ s.params.startWhileRunning = .fault)) :
    payloadOps .startStop b s = startOps s.params s.cfg := by
  simp [payloadOps, startStopOps, startCommandOps, isRunning, hb, hstart]

theorem abortedPhase_of_ne_quiescent {p : WfgPhase} (hp : p ≠ .quiescent) : abortedPhase p = .aborting := by
  cases p with
  | quiescent => exact absurd rfl hp
  | _ => rfl

section
variable {op : Op} {l : List Micro} {s t : State}

theorem QuietRun.resetSync {k : ResetStep} (h : QuietRun op (resetSync k ++ l) s t) :
    QuietRun op l (writeReg (resetReg k) (resetByte s.params s.cfg.nch k) s) t :=
  ((h.act (a := .resetWrite k) rfl).act (a := .sync) rfl).congr rfl

theorem QuietRun.abort (h : QuietRun op (Machine.resetSync .abort ++ l) s t) :
    QuietRun op l (afterAbort (abortedPhase s.wfgPhase) s) t := by
  refine h.resetSync.congr ?_
  simp [AgreesButWatch, afterAbort, writeReg, resetReg, resetByte, regsWrite, phaseAfter_eq, fifoBulkAfter, fifoIsoAfter,
    writeEvents]

/-- `start()` past the idle gate (R191, R212). -/
theorem QuietRun.startTail {p : WfgPhase} (h : QuietRun op (startTail s.params s.cfg ++ l) (afterAbort p s) t) :
    QuietRun op l (afterStart s) t := by
  simp only [Machine.startTail, List.append_assoc] at h
  have hreset := h.resetSync.resetSync.resetSync.resetSync.resetSync.resetSync.resetSync.resetSync
  have hstarted := (hreset.act (a := .emptyFifos) rfl).wrSync.wrSync.wrSync
  refine QuietRun.congr ((hstarted.act (a := .setLed .streaming 0) rfl).act (a := .setAcq .running) rfl) ?_
  simp [AgreesButWatch, afterStart, afterAbort, actEffect, emptyFifos, writeReg, resetReg, resetByte, regsWrite,
    phaseAfter_eq, fifoBulkAfter, fifoIsoAfter, writeEvents, resetEvents]

/-- `start()` where nothing holds it: the generator is quiescent, or the sequence does not wait for it (R191, R212). -/
theorem QuietRun.start (h : QuietRun op (startOps s.params s.cfg ++ l) s t)
    (hgate : s.wfgPhase = .quiescent ∨ s.params.idleGateWait = false) : QuietRun op l (afterStart s) t := by
  simp only [startOps_eq, List.append_assoc] at h
  have haborted := h.abort
  split at haborted
  · next hwait =>
    have hquiescent : s.wfgPhase = .quiescent := hgate.resolve_right (by simp [hwait])
    exact (haborted.wait (by simp [waitHolds, gate, afterAbort, hquiescent, abortedPhase])).startTail
  · exact haborted.startTail

/-- The generator reaches its idle state while the block is held at the gate (R61). -/
theorem QuietRun.quiesce {i : List Input} (h : QuietRun op (.wait .gate :: l) s t) (hp : s.wfgPhase = .aborting)
    (hu : s.suspended = false) (hi : s.inputs = quiesceIn :: i) (hq : quiet i = true) :
    QuietRun op (.wait .gate :: l) { s with wfgPhase := .quiescent, inputs := i } t := by
  obtain ⟨hf, _, w, hrun⟩ := h
  have hheld : canMove (placed op (.wait .gate :: l) w s) = false := by simp [canMove, placed, waitHolds, gate, hp]
  have hcame := hrun.after_turn rfl (turn_held (s := placed op (.wait .gate :: l) w s) hf hheld hi)
  refine ⟨hf, hq, w, ?_⟩
  simpa [envStep, placed, hp, hu] using hcame

/-- A run that nothing can move ends where it is. -/
theorem RunsTo.eq_of_stuck (h : RunsTo s t) (hc : canMove s = false) (hi : s.inputs = []) : t = s := by
  obtain ⟨n, _, rfl⟩ := h
  exact run_stuck hc hi

theorem RunsTo.eq_of_ready (h : RunsTo s t) (hs : s.seq = .ready) : t = s := by
  obtain ⟨n, _, rfl⟩ := h
  exact run_ready hs

/-- A wait whose condition is false holds the block for good, with no input to come (R279). -/
theorem QuietRun.hold {c : WaitCond} (h : QuietRun op (.wait c :: l) s t) (hc : waitHolds c s = false)
    (hi : s.inputs = []) : step t = .next t ∧ AgreesButWatch t { s with seq := .busy op (.wait c :: l) } := by
  obtain ⟨hf, _, w, hrun⟩ := h
  have hheld : canMove (placed op (.wait c :: l) w s) = false := by cases c <;> exact hc
  have ht : t = placed op (.wait c :: l) w s := hrun.eq_of_stuck hheld hi
  have hstuck : carryOn (placed op (.wait c :: l) w s) = placed op (.wait c :: l) w s := run_stuck hheld hi
  refine ⟨?_, by rw [ht]; rfl⟩
  rw [ht, step_busy (s := placed op (.wait c :: l) w s) hf rfl, hstuck]

end

/-! ### ACQ 1 -/

/-- The request is taken and its data stage has just arrived (R63, R282). -/
def withStage (d : DataStage) (l : List Input) (s : State) : State := { taken l s with ep0 := some d }

/-- ACQ 1 whose data stage comes when it is awaited: the start is next (R212, R249). -/
theorem exec_acq_start (arg : Byte) {s : State} {d : DataStage} {l : List Input} (hs : CanTake s)
    (hd : PayloadComes d l s) (hone : d.first = 1)
    (hstart : ¬ (s.acq = .running ∧ s.params.startWhileRunning = .fault)) :
    ∃ t, exec (.acq arg) s = .next t ∧
      QuietRun (.dispatch (mkWord kindVendorOut s.params.reqAcq d.first)) (startOps s.params s.cfg ++ [.reply .handled])
        (withStage d l s) t := by
  obtain ⟨t, hexec, hrun⟩ := exec_quietRun (.acq arg) hs (by rw [hd.2.1]; rfl)
  have hcame : QuietRun _ _ (withStage d l s) t := QuietRun.dataStage (s := { s with pendingSetup := none }) hrun hd
  have hread := (hcame.wait rfl).readPayload rfl
  rw [payloadOps_start (s := withStage d l s) hone hstart, opWithArg, encode, setArg_mkWord] at hread
  exact ⟨t, hexec, hread⟩

/-- The reply to a start takes the data stage away (R241). -/
theorem QuietRun.started {w : Word24} {d : DataStage} {l : List Input} {s t : State}
    (h : QuietRun (.dispatch w) [.reply .handled] (afterStart (withStage d l s)) t) (hs : s.seq = .ready) :
    AgreesButWatch t (answered w .handled (afterStart (taken l s))) := by
  have hreply := h.reply
  rw [← hs] at hreply
  exact hreply

/-- ACQ 1 with the idle-gate wait and a generator that is not quiescent comes to the gate (R191). -/
theorem exec_acq_atGate (arg : Byte) {s : State} {d : DataStage} {l : List Input} (hs : CanTake s)
    (hd : PayloadComes d l s) (hone : d.first = 1)
    (hstart : ¬ (s.acq = .running ∧ s.params.startWhileRunning = .fault)) (hp : s.wfgPhase ≠ .quiescent)
    (hwait : s.params.idleGateWait = true) :
    ∃ t, exec (.acq arg) s = .next t ∧
      QuietRun (.dispatch (mkWord kindVendorOut s.params.reqAcq d.first))
        (.wait .gate :: (startTail s.params s.cfg ++ [.reply .handled]))
        (afterAbort .aborting (withStage d l s)) t := by
  obtain ⟨t, hexec, hrun⟩ := exec_acq_start arg hs hd hone hstart
  simp only [startOps_eq, hwait, if_true, List.append_assoc] at hrun
  exact ⟨t, hexec, abortedPhase_of_ne_quiescent hp ▸ hrun.abort⟩

/-- Settles O37: held at the gate, the start takes the quiesce input and goes on as from a quiescent generator. -/
theorem acqOneWaitsForTheIdleGate : Obligations.AcqOneWaitsForTheIdleGate := by
  intro arg s d l hs hep0 hu hi hq hone hstart hp hwait
  obtain ⟨t, hexec, hrun⟩ := exec_acq_atGate arg hs ⟨hep0, hi, rfl⟩ hone hstart hp hwait
  have hpassed := (hrun.quiesce rfl hu rfl hq).wait rfl
  have hended := QuietRun.startTail (s := withStage d l s) (p := .quiescent) hpassed
  exact ⟨t, hexec, hended.started hs.2⟩

/-- Settles O38: with no input to come the gate holds the start for good. -/
theorem acqOneHangsWithoutTheIdleGate : Obligations.AcqOneHangsWithoutTheIdleGate := by
  intro arg s d hs hd hone hstart hp hwait
  obtain ⟨t, hexec, hrun⟩ := exec_acq_atGate arg hs hd hone hstart hp hwait
  obtain ⟨hstep, hheld⟩ := hrun.hold rfl rfl
  rw [startOps_drop hwait]
  exact ⟨t, hexec, hstep, hheld⟩

/-! ### A lock-up at the first pulse (R195 (iii)) -/

/-- The FIFO hardware locks up after `n` more micro-operations of the thread, if it can. -/
def lockupIn (n : Nat) : Input := { due := .afterOps n, ev := .lockup }

section
variable {s t : State} {op : Op} {rest : List Micro}

/-- An input whose count has not run out is counted, and the thread makes its next micro-operation (R60). -/
theorem RunsTo.countedMicro {m : Micro} {n : Nat} {i : List Input} (h : RunsTo s t) (hf : s.fault = none)
    (hs : s.seq = .busy op (m :: rest)) (hc : canMove s = true) (hi : s.inputs = lockupIn (n + 1) :: i) :
    RunsTo (microStep op m rest (counted s)) t :=
  h.after_turn hs (by simp [turn, hf, hi, hc, lockupIn, dueInput, sequencerStep, hs])

/-- The data stage comes when it is awaited (R63), whatever is to come after it. -/
theorem RunsTo.dataStage {l : List Micro} {w : FifoWatch} {d : DataStage} {i : List Input}
    (h : RunsTo (placed op (.wait .payload :: l) w s) t) (hf : s.fault = none) (hep0 : s.ep0 = none)
    (hi : s.inputs = dataIn d :: i) :
    RunsTo (placed op (.wait .payload :: l) w { s with ep0 := some d, inputs := i }) t := by
  have hheld : canMove (placed op (.wait .payload :: l) w s) = false := by simp [canMove, placed, waitHolds, hep0]
  have hcame := h.after_turn rfl (turn_held (s := placed op (.wait .payload :: l) w s) hf hheld hi)
  simpa [envStep, awaitsPayload, placed, hep0] using hcame

/-- A plain micro-operation with a lock-up still to be counted down; it raises nothing and leaves the acquisition state. -/
theorem RunsTo.countedAct {a : Act} {n : Nat} (h : RunsTo s t) (hf : s.fault = none)
    (hs : s.seq = .busy op (.act a :: rest)) (hi : s.inputs = [lockupIn (n + 1)])
    (ha : ∀ v, (actEffect a v).fault = v.fault ∧ (actEffect a v).acq = v.acq) :
    ∃ u, RunsTo u t ∧ u.fault = none ∧ u.seq = seqAfter op rest ∧ u.inputs = [lockupIn n] ∧ u.acq = s.acq ∧
      u.wfgPhase = (actEffect a (closeHazard (counted s))).wfgPhase ∧
      u.watch = (actEffect a (closeHazard (counted s))).watch := by
  obtain ⟨_, hinputs, _⟩ := actEffect_keeps a (closeHazard (counted s))
  refine ⟨_, h.countedMicro hf hs (by simp [canMove, hs]) hi, (ha _).1.trans hf, rfl, ?_, (ha _).2, rfl, rfl⟩
  exact hinputs.trans (by simp [hi, countOp, lockupIn])

/-- A first pulse while the generator is aborting opens a window, and a lock-up then stops the block (R195, R276). -/
theorem RunsTo.lockup {m : Micro} (h : RunsTo s t) (hf : s.fault = none)
    (hs : s.seq = .busy op (.act (.resetWrite .abort) :: .act .sync :: .act (.resetWrite .firstPulse) :: m :: rest))
    (hp : s.wfgPhase = .executing) (hi : s.inputs = [lockupIn 3]) :
    t.fault = some .fifoLockup ∧ t.acq = s.acq := by
  obtain ⟨x, hx, hxf, hxs, hxi, hxacq, hxphase, -⟩ := h.countedAct hf hs hi fun _ => ⟨rfl, rfl⟩
  obtain ⟨y, hy, hyf, hys, hyi, hyacq, hyphase, -⟩ := hx.countedAct hxf hxs hxi fun _ => ⟨rfl, rfl⟩
  obtain ⟨z, hz, hzf, hzs, hzi, hzacq, -, hzwatch⟩ := hy.countedAct hyf hys hyi fun _ => ⟨rfl, rfl⟩
  have haborting : y.wfgPhase = .aborting := by rw [hyphase]; simp [actEffect, hxphase, hp, resetReg, phaseAfter]
  have hopen : z.watch.hazard = true := by
    rw [hzwatch]
    exact (lockupAdmitted_iff _ _ _).mpr (.inr (.inr ⟨rfl, by simp [haborting]⟩))
  have hlocked : envStep .lockup { z with inputs := [] } = raise .fifoLockup { z with inputs := [] } := by
    simp [envStep, hopen]
  have hstopped : RunsTo (raise .fifoLockup { z with inputs := [] }) t :=
    hlocked ▸ hz.after_turn hzs (turn_due hzf hzi)
  rw [hstopped.eq_of_ready rfl]
  exact ⟨rfl, hzacq.trans (hyacq.trans hxacq)⟩

end

/-- Without the wait the first pulse is next after the abort and its delay (R191). -/
theorem startOps_without_wait {P : Params} (h : P.idleGateWait = false) (c : AcqConfig) :
    ∃ l, startOps P c =
      .act (.resetWrite .abort) :: .act .sync :: .act (.resetWrite .firstPulse) :: .act .sync :: l :=
  ⟨_, by rw [startOps_eq, h]; rfl⟩

/-- ACQ 1 with a lock-up to be counted down once the data stage is there: the start is next. -/
theorem exec_acq_counted (arg : Byte) {s : State} {d : DataStage} {n : Nat} (hs : CanTake s) (hep0 : s.ep0 = none)
    (hone : d.first = 1) (hstart : ¬ (s.acq = .running ∧ s.params.startWhileRunning = .fault)) :
    ∃ t w, exec (.acq arg) { s with inputs := [dataIn d, lockupIn (n + 2)] } = .next t ∧
      RunsTo (placed (.dispatch (mkWord kindVendorOut s.params.reqAcq d.first))
        (startOps s.params s.cfg ++ [.reply .handled]) w (withStage d [lockupIn n] s)) t := by
  obtain ⟨t, hexec, hf, _, w, hrun⟩ :=
    exec_quietRun (.acq arg) (s := { s with inputs := [dataIn d, lockupIn (n + 2)] }) hs rfl
  have hcame := RunsTo.dataStage (l := [.readPayload .startStop, .reply .handled]) hrun hf hep0 rfl
  have hread := (hcame.countedMicro hf rfl rfl rfl).countedMicro hf rfl rfl rfl
  refine ⟨t, { w with hazard := false }, hexec, ?_⟩
  rw [← payloadOps_start hone hstart, ← setArg_mkWord _ _ arg]
  exact hread

/-- Settles O42: a lock-up step right after the first pulse is one outcome, no further input the other. -/
theorem lockupAdmittedWithoutTheWait : Obligations.LockupAdmittedWithoutTheWait := by
  intro arg s d hs _ hep0 hone hstart hp hwait
  constructor
  · obtain ⟨t, w, hexec, hrun⟩ := exec_acq_counted arg (n := 3) hs hep0 hone hstart
    obtain ⟨l, hops⟩ := startOps_without_wait hwait s.cfg
    rw [hops] at hrun
    exact ⟨[lockupIn 5], t, hexec, hrun.lockup hs.1 rfl hp rfl⟩
  · have hd : PayloadComes d [] { s with inputs := [dataIn d] } := ⟨hep0, rfl, rfl⟩
    obtain ⟨t, hexec, hrun⟩ := exec_acq_start arg (s := { s with inputs := [dataIn d] }) hs hd hone hstart
    have ht := QuietRun.started (QuietRun.start hrun (.inr hwait)) hs.2
    exact ⟨[], t, hexec, by rw [ht]; exact hs.1, by rw [ht]; rfl⟩

end Sys2Proof.Machine
end

section
/-! PROOFS. ACQ: its payload byte chooses between a stop, a start and, while acquisition runs, a fault (R210 to R213,
R249). -/

namespace Sys2Proof.Machine

/-! ### The choice by the payload -/

/-- Every payload but 1 stops (R103, R249). -/
theorem payloadOps_stop {b : Byte} (hb : b ≠ 1) (s : State) :
    payloadOps .startStop b s = stopOps s.params s.cfg.alt := if_neg hb

/-- A payload of 1 is a fault while the block runs and a start while running is one (R213). -/
theorem payloadOps_startWhileRunning {b : Byte} {s : State} (hb : b = 1) (hrunning : s.acq = .running)
    (hpolicy : s.params.startWhileRunning = .fault) : payloadOps .startStop b s = [.raise .startWhileRunning] := by
  simp [payloadOps, startStopOps, startCommandOps, isRunning, hb, hrunning, hpolicy]

/-- ACQ whose data stage comes when it is awaited: what its payload chooses is next, then the reply (R249). -/
theorem exec_acq_payload (arg : Byte) {s : State} {d : DataStage} {l : List Input} (hs : CanTake s)
    (hd : PayloadComes d l s) :
    ∃ t, exec (.acq arg) s = .next t ∧
      QuietRun (.dispatch (mkWord kindVendorOut s.params.reqAcq d.first))
        (payloadOps .startStop d.first (withStage d l s) ++ [.reply .handled]) (withStage d l s) t := by
  obtain ⟨t, hexec, hrun⟩ := exec_quietRun (.acq arg) hs (by rw [hd.2.1]; rfl)
  have hcame : QuietRun _ _ (withStage d l s) t := QuietRun.dataStage (s := { s with pendingSetup := none }) hrun hd
  have hread := (hcame.wait rfl).readPayload rfl
  rw [opWithArg, encode, setArg_mkWord] at hread
  exact ⟨t, hexec, hread⟩

/-! ### A stop -/

/-- Settles O34: the payload chooses `stop()`, which is followed to its reply. -/
theorem acqOtherThanOneStops : Obligations.AcqOtherThanOneStops := by
  intro arg s d l hs hd hstop
  obtain ⟨t, hexec, hrun⟩ := exec_acq_payload arg hs hd
  rw [payloadOps_stop hstop] at hrun
  have hreply := hrun.stop.reply
  rw [← hs.2] at hreply
  exact ⟨t, hexec, hreply⟩

theorem abortedPhase_idem (p : WfgPhase) : abortedPhase (abortedPhase p) = abortedPhase p := by cases p <;> rfl

/-- `stop()` of a block that is idle, whose generator does not execute and whose active FIFO is empty adds its events and
nothing else (R211). -/
theorem afterStop_of_stopped {s : State} (hacq : s.acq = .idle) (hphase : abortedPhase s.wfgPhase = s.wfgPhase)
    (hfifo : readFifo s.cfg.alt s = .empty) :
    afterStop s = { s with trace := s.trace ++ stopEvents s.params s.cfg.alt } := by
  cases halt : s.cfg.alt with
  | bulk =>
    have hbulk : s.fifoBulk = .empty := by simpa [readFifo, halt] using hfifo
    simp [afterStop, halt, hphase, ← hacq, ← hbulk]
  | iso =>
    have hiso : s.fifoIso = .empty := by simpa [readFifo, halt] using hfifo
    simp [afterStop, halt, hphase, ← hacq, ← hiso]

/-- `stop()` empties the FIFO of the active endpoint (R51, R62). -/
theorem readFifo_afterStop (s : State) : readFifo s.cfg.alt (afterStop s) = .empty := by
  cases halt : s.cfg.alt <;> simp [readFifo, afterStop, halt]

/-- Settles O35: after the first stop the block is stopped, so the second one is ACQ's stop again and adds only events. -/
theorem stopTwiceIsStopOnce : Obligations.StopTwiceIsStopOnce := by
  intro arg s d l hs hd hstop hq
  obtain ⟨t, hexec, ht⟩ := acqOtherThanOneStops arg s d [] hs hd hstop
  have hagain : CanTake { t with inputs := dataIn d :: l } := by rw [ht]; exact hs
  have hcomes : PayloadComes d l { t with inputs := dataIn d :: l } := ⟨by rw [ht]; rfl, rfl, hq⟩
  obtain ⟨u, hexec', hu⟩ := acqOtherThanOneStops arg _ d l hagain hcomes hstop
  have hstopped : afterStop (taken l t) =
      { taken l t with trace := t.trace ++ stopEvents t.params t.cfg.alt } :=
    afterStop_of_stopped (by rw [ht]; rfl) (by rw [ht]; exact abortedPhase_idem _)
      (by rw [ht]; exact readFifo_afterStop s)
  have hsecond : AgreesButWatch u (answered _ .handled (afterStop (taken l t))) := hu
  rw [hstopped] at hsecond
  refine ⟨t, u, hexec, hexec', hsecond.trans ?_⟩
  rw [ht]
  rfl

/-! ### A start -/

/-- Settles O36: the payload chooses `start()`, which nothing holds at the gate. -/
theorem acqOneStarts : Obligations.AcqOneStarts := by
  intro arg s d l hs hd hone hstart hgate
  obtain ⟨t, hexec, hrun⟩ := exec_acq_start arg hs hd hone hstart
  exact ⟨t, hexec, (QuietRun.start hrun hgate).started hs.2⟩

/-- A raise ends the run (R15, R67). -/
theorem QuietRun.raise {op : Op} {f : StickyFault} {l : List Micro} {s t : State}
    (h : QuietRun op (.raise f :: l) s t) : AgreesButWatch t (Machine.raise f s) := by
  obtain ⟨w, hrun⟩ := h.micro fun _ => rfl
  rw [hrun.eq_of_ready rfl]
  rfl

/-- Settles O39: the payload chooses the fault, which is raised before anything is written. -/
theorem acqOneWhileRunningFaults : Obligations.AcqOneWhileRunningFaults := by
  intro arg s d l hs hd hone hrunning hpolicy
  obtain ⟨t, hexec, hrun⟩ := exec_acq_payload arg hs hd
  rw [payloadOps_startWhileRunning (s := withStage d l s) hone hrunning hpolicy] at hrun
  have hraised := hrun.raise
  rw [Machine.raise, ← hs.2] at hraised
  exact ⟨t, hexec, hraised⟩

end Sys2Proof.Machine
end

section
/-! PROOFS. Every command ends in one reply, a hold or a fault: what is left to do always holds an answer still to come, and
the replies are counted along every interleaving (R241). -/

namespace Sys2Proof.Machine

/-! ### The replies of a trace -/

/-- The event is an answer to the USB stack (R241). -/
def isReply : Event → Bool
  | .reply _ _ => true
  | _ => false

/-- How many answers the trace holds. -/
def replies (s : State) : Nat := s.trace.countP isReply

theorem replies_congr {s t : State} (h : t.trace = s.trace) : replies t = replies s := congrArg (List.countP isReply) h

theorem replies_append {s t : State} {l : List Event} (h : t.trace = s.trace ++ l) :
    replies t = replies s + l.countP isReply := by
  rw [replies, h, List.countP_append]
  rfl

/-- A register write answers nothing (R66). -/
theorem replies_writeReg (r : Reg) (v : Byte) (s : State) : replies (writeReg r v s) = replies s := by
  rw [replies_append (writeReg_trace r v s)]
  cases r <;> rfl

/-- No plain micro-operation answers. -/
theorem replies_actEffect (a : Act) (s : State) : replies (actEffect a s) = replies s := by
  cases a with
  | wr r v => exact replies_writeReg r v s
  | resetWrite k => exact replies_writeReg (resetReg k) (resetByte s.params s.cfg.nch k) s
  | writeIsoPkts => exact replies_writeReg .isoPkts (isoPktsByte s.params s.cfg s.speed) s
  | emitAlt => exact replies_append (emit_trace (.alt s.cfg.alt) s)
  | pmWrite v =>
    rcases pmWrite_cases v s with ⟨_, h⟩ | ⟨_, h⟩ <;> rw [actEffect, h]
    · exact replies_append (s := s) (l := [.pm s.pmPtr v]) rfl
    · rfl
  | setVr ch c => cases ch <;> rfl
  | _ => rfl

/-! ### The answer still to come -/

/-- The micro-operation ends its operation: a reply or a raise (R241, R15). -/
def endsOperation : Micro → Bool
  | .reply _ => true
  | .raise _ => true
  | _ => false

/-- A reply or a raise is still to come. -/
abbrev AnswerAhead (l : List Micro) : Prop := l.any endsOperation = true

theorem AnswerAhead.append_left {l : List Micro} (h : AnswerAhead l) (l' : List Micro) : AnswerAhead (l' ++ l) := by
  rw [AnswerAhead, List.any_append, h, Bool.or_true]

/-- With an answer to come there is something left to do. -/
theorem AnswerAhead.seqAfter_eq {l : List Micro} (h : AnswerAhead l) (op : Op) : seqAfter op l = .busy op l := by
  cases l with
  | nil => cases h
  | cons m l => rfl

/-- Every command's sequence ends in a reply or a raise (R242). -/
theorem answerAhead_dispatch (i : Instr) (s : State) : AnswerAhead (dispatchOps i s) := by
  have hconfig (k : PayloadUse) : AnswerAhead (configCommandOps k s) := AnswerAhead.append_left rfl (prologueOps s)
  cases i with
  | volt0 _ => exact hconfig (.voltage .ch0)
  | volt1 _ => exact hconfig (.voltage .ch1)
  | rate _ => exact hconfig .rate
  | nch _ => exact hconfig .channelCount
  | setAlt a =>
    simp only [dispatchOps, setAltOps]
    split
    · rfl
    · exact AnswerAhead.append_left rfl _
  | _ => rfl

/-! ### Along every interleaving -/

/-- The block is `Ready`, or inside a request with its answer still to come; the trace holds `n + 1` answers where it is
`Ready` with no fault, and `n` otherwise. -/
structure AnsweredOnce (n : Nat) (s : State) : Prop where
  count : replies s = n + if s.seq = .ready ∧ s.fault = none then 1 else 0
  ahead : ∀ op l, s.seq = .busy op l → (∃ w, op = .dispatch w) ∧ AnswerAhead l

/-- A request with its answer still to come has not answered. -/
theorem answeredOnce_busy {n : Nat} {s : State} {w : Word24} {l : List Micro} (hn : replies s = n)
    (hs : s.seq = seqAfter (.dispatch w) l) (hl : AnswerAhead l) : AnsweredOnce n s := by
  rw [hl.seqAfter_eq] at hs
  refine ⟨by simp [hn, hs], fun op l' hop => ?_⟩
  cases hs.symm.trans hop
  exact ⟨⟨w, rfl⟩, hl⟩

theorem answeredOnce_ready {n : Nat} {s : State} (hs : s.seq = .ready)
    (hn : replies s = n + if s.fault = none then 1 else 0) : AnsweredOnce n s :=
  ⟨by simpa [hs] using hn, fun op l hop => by cases hs.symm.trans hop⟩

section
variable {n : Nat} {s : State} {w : Word24} {l : List Micro}

/-- Another agent's step answers nothing; a lock-up drops the answer still to come with the operation (R195, R276). -/
theorem envStep_answeredOnce (hn : replies s = n) (hs : s.seq = .busy (.dispatch w) l) (hl : AnswerAhead l)
    (e : EnvEvent) : AnsweredOnce n (envStep e s) := by
  have hbusy : s.seq = seqAfter (.dispatch w) l := hs.trans (hl.seqAfter_eq _).symm
  have hcount : replies (envStep e s) = n := (replies_congr (envStep_sameRecord e s).trace).trans hn
  rcases envStep_seq_or_fault e s with hseq | hfault
  · exact answeredOnce_busy hcount (hseq.trans hbusy) hl
  · rcases envStep_seq e s with hseq | hseq
    · exact answeredOnce_busy hcount (hseq.trans hbusy) hl
    · exact answeredOnce_ready hseq (by simp [hcount, hfault])

/-- A reply answers and leaves the block `Ready`, a raise faults it, and any other micro-operation leaves the answer to
come. -/
theorem microStep_answeredOnce {m : Micro} (hf : s.fault = none) (hn : replies s = n)
    (hs : s.seq = .busy (.dispatch w) (m :: l)) (hl : AnswerAhead (m :: l)) :
    AnsweredOnce n (microStep (.dispatch w) m l s) := by
  have hstay : AnsweredOnce n s := answeredOnce_busy hn (hs.trans (hl.seqAfter_eq _).symm) hl
  cases m with
  | act a => exact answeredOnce_busy ((replies_actEffect a (closeHazard s)).trans hn) rfl hl
  | wait c =>
    simp only [microStep]
    split
    · exact answeredOnce_busy hn rfl hl
    · exact hstay
  | readPayload k =>
    cases he : s.ep0 with
    | none =>
      simp only [microStep, he]
      exact hstay
    | some d =>
      rw [microStep_readPayload he]
      exact answeredOnce_busy hn rfl (AnswerAhead.append_left (l := l) hl _)
  | sampleSpeed a =>
    exact answeredOnce_busy hn rfl (AnswerAhead.append_left (l := l) hl _)
  | reply r =>
    refine answeredOnce_ready rfl ?_
    rw [if_pos (show (microStep (.dispatch w) (.reply r) l s).fault = none from hf), ← hn]
    exact replies_append (s := s) (l := [.reply w r]) rfl
  | raise f => exact answeredOnce_ready rfl hn

/-- A turn inside a request keeps the count. -/
theorem AnsweredOnce.turn {s' : State} {op : Op} (h : AnsweredOnce n s) (hs : s.seq = .busy op l)
    (ht : turn sequencerStep s = some s') : AnsweredOnce n s' := by
  obtain ⟨⟨w, rfl⟩, hl⟩ := h.ahead op l hs
  have hn : replies s = n := by simpa [hs] using h.count
  obtain ⟨m, rest, rfl⟩ := List.exists_cons_of_ne_nil (l := l) (by rintro rfl; cases hl)
  obtain ⟨hf, ⟨d, e, i, _, rfl⟩ | ⟨_, rfl⟩⟩ := turn_cases ht
  · exact envStep_answeredOnce (s := { s with inputs := i }) hn hs hl e
  · have hstep : sequencerStep (counted s) = microStep (.dispatch w) m rest (counted s) := by simp [sequencerStep, hs]
    rw [hstep]
    exact microStep_answeredOnce (s := counted s) hf hn hs hl

end

/-- What every turn inside an operation keeps holds where a run ends. -/
theorem RunsTo.keeps {I : State → Prop}
    (hI : ∀ u u' op l, I u → u.seq = .busy op l → turn sequencerStep u = some u' → I u') {s t : State}
    (h : RunsTo s t) (hs : I s) : I t := by
  obtain ⟨n, -, rfl⟩ := h
  induction n generalizing s with
  | zero => exact hs
  | succ n ih =>
    cases hseq : s.seq with
    | ready => rwa [run_ready hseq]
    | busy op l =>
      cases ht : turn sequencerStep s with
      | none => simpa [run, hseq, ht] using hs
      | some s' => simpa [run, hseq, ht] using ih (hI s s' op l hs hseq ht)

/-- Where a run ends, the thread is `Ready` or no agent has a step. -/
theorem RunsTo.stuck {s t : State} (h : RunsTo s t) (hs : t.seq ≠ .ready) : tick t = none := by
  obtain ⟨n, hn, rfl⟩ := h
  cases hseq : (run n s).seq with
  | ready => exact absurd hseq hs
  | busy op l => exact (tick_busy hseq).trans ((run_ends n hn).resolve_left hs)

/-- Settles O50: the answer is ahead until it is made or a fault drops it, and the run ends `Ready` or held. -/
theorem oneReplyPerCommand : Obligations.OneReplyPerCommand := by
  intro i s t h
  have hrun := runsTo_of_exec h
  have hstart : AnsweredOnce (replies s) (takeRequest i (dispatchOps i s) (counted s)) :=
    answeredOnce_busy (w := encode s.params i) rfl ((answerAhead_dispatch i s).seqAfter_eq _).symm
      (answerAhead_dispatch i s)
  have hend : AnsweredOnce (replies s) t := hrun.keeps (fun _ _ _ _ hu hs ht => hu.turn hs ht) hstart
  exact ⟨hend.count, fun hs _ => hrun.stuck hs⟩

end Sys2Proof.Machine
end

section
/-! PROOFS. The commands of the dispatcher, each followed from the word that is taken to its reply (R246 to R253), its refusal
or a hold for a data stage that never comes (R244, R279). -/

namespace Sys2Proof.Machine

/-! ### From the pending word to the command (R240, R282) -/

/-- Settles O14: a command looks at the sequencer's position before it takes a request. -/
theorem oneRequestAtATime : Obligations.OneRequestAtATime := by
  intro s i op rest hf hs
  simp [exec_eq, runRequest, hf, hs]

/-- Settles O8: with no input due the main loop takes the pending request. -/
theorem stepRunsTheDecodedCommand : Obligations.StepRunsTheDecodedCommand := by
  intro s w i hs hb hu hw hi hq
  have hc : canMove s = true := by simp [canMove, hs.2, hu, hw]
  have htakes : mainLoopTakes s = .request i := by simp [mainLoopTakes, hb, hw, hi]
  simp [step, nextMove_ready hs, readyMove, hc, dueInput_of_quiet hq, htakes]

/-- The host's data stage comes only when it is awaited (R112). -/
theorem quiet_wordInputs (w : Word24) : quiet (wordInputs w) = true := by
  unfold wordInputs
  split <;> rfl

/-- Settles O9: a placed word is pending in a block that can take it, with quiet inputs. -/
theorem placedWordRunsNext : Obligations.PlacedWordRunsNext := by
  intro s nbits w word i hs hb hu hword hi
  have hplaced : s.withFetchWord nbits w = placeRequest word s := by simp [State.withFetchWord, hword]
  rw [hplaced]
  exact stepRunsTheDecodedCommand (placeRequest word s) word i hs hb hu rfl hi (quiet_wordInputs word)

/-! ### Commands with no payload -/

/-- Settles O43: the reply is the whole sequence. -/
theorem unknownVendorIsUnhandled : Obligations.UnknownVendorIsUnhandled := by
  intro req arg s hs hq
  obtain ⟨t, hexec, hrun⟩ := exec_quietRun (.vendorUnknown req arg) hs hq
  have hreply := QuietRun.reply (l := []) hrun
  rw [← hs.2] at hreply
  exact ⟨t, hexec, hreply⟩

/-- Settles O44: the raise is the whole sequence. -/
theorem vendorInIsRefused : Obligations.VendorInIsRefused := by
  intro req arg s hs hq
  obtain ⟨t, hexec, hrun⟩ := exec_quietRun (.vendorIn req arg) hs hq
  have hraised := QuietRun.raise (l := []) hrun
  rw [raise, ← hs.2] at hraised
  exact ⟨t, hexec, hraised⟩

/-- Settles O33: the event of the current setting, then the reply. -/
theorem getAltCommandAnswersTheSetting : Obligations.GetAltCommandAnswersTheSetting := by
  intro arg s hs hq
  obtain ⟨t, hexec, hrun⟩ := exec_quietRun (.getAlt arg) hs hq
  have hreply := (QuietRun.act (a := .emitAlt) hrun rfl).reply
  rw [← hs.2] at hreply
  refine ⟨t, hexec, hreply.trans ?_⟩
  simp [answered, actEffect, emit, encode]

/-! ### SETALT -/

section
variable {op : Op} {l : List Micro} {s t : State}

/-- The link speed is read, and the writes for it follow (R171). -/
theorem QuietRun.sampleSpeed {a : Alt} (h : QuietRun op (.sampleSpeed a :: l) s t) :
    QuietRun op (endpointOps s.params s.speed a ++ l) s t := by
  obtain ⟨w, hrun⟩ := h.micro fun _ => rfl
  obtain ⟨hf, hq, _⟩ := h
  exact ⟨hf, hq, _, hrun⟩

/-- `selectInterface(alt)` (R171). -/
theorem QuietRun.selectInterface {a : Alt} (h : QuietRun op (selectInterfaceOps a ++ l) s t) :
    QuietRun op l (afterSelectInterface a s) t := by
  have hwrites := (QuietRun.act (a := .setAlt a) h rfl).sampleSpeed
  cases a with
  | bulk =>
    simp only [endpointOps, List.append_assoc] at hwrites
    refine hwrites.wrSync.wrSync.wrSync.wrSync.congr ?_
    simp [AgreesButWatch, afterSelectInterface, actEffect, writeReg, regsWrite, phaseAfter_eq, fifoBulkAfter,
      fifoIsoAfter, writeEvents]
  | iso =>
    simp only [endpointOps, List.append_assoc] at hwrites
    refine QuietRun.recomputeIso (QuietRun.congr hwrites.wrSync.wrSync.wrSync.wrSync ?_)
    simp [AgreesButWatch, actEffect, writeReg, regsWrite, phaseAfter_eq, fifoBulkAfter, fifoIsoAfter, writeEvents]

end

@[simp] theorem afterSelectInterface_seq (a : Alt) (s : State) : (afterSelectInterface a s).seq = s.seq := by
  cases a <;> rfl

/-- Settles O30: a setting in use is selected after the prologue, another is refused before it. -/
theorem setAltCommandSelectsOrRefuses : Obligations.SetAltCommandSelectsOrRefuses := by
  intro a s hs hq
  obtain ⟨t, hexec, hrun⟩ := exec_quietRun (.setAlt a) hs hq
  refine ⟨t, hexec, ?_⟩
  simp only [dispatchOps, setAltOps] at hrun
  cases ha : altSetting a with
  | none =>
    rw [ha] at hrun
    have hraised := hrun.raise
    rw [raise, ← hs.2] at hraised
    exact hraised
  | some alt =>
    simp only [ha, List.append_assoc] at hrun
    have hreply := (QuietRun.prologue (s := taken s.inputs s) hrun).selectInterface.reply
    have hready : (afterSelectInterface alt (afterPrologue (taken s.inputs s))).seq = .ready := by simp [hs.2]
    rwa [← hready] at hreply

/-! ### The setting operations, as state updates -/

section
variable {op : Op} {l : List Micro} {s t : State}

/-- `setVoltage(ch, c)` for an accepted code (R131). -/
theorem QuietRun.setVoltage {ch : Channel} {c : VoltageCode}
    (h : QuietRun op (Machine.wrSync .sw (insertField s.params ch c s.regs.sw) ++ (.act (.setVr ch c) :: l)) s t) :
    QuietRun op l (afterSetVoltage ch c s) t := by
  refine (QuietRun.act (a := .setVr ch c) h.wrSync (by cases ch <;> rfl)).congr ?_
  cases ch <;> simp [AgreesButWatch, afterSetVoltage, actEffect, writeReg, regsWrite, phaseAfter_eq, fifoBulkAfter,
    fifoIsoAfter, writeEvents]

/-- `setChannelCount(n)` for an accepted count (R136). -/
theorem QuietRun.setChannelCount {n : ChannelCount}
    (h : QuietRun op (channelCountOps s.params s.cfg.alt n ++ l) s t) :
    QuietRun op l (afterSetChannelCount n s) t := by
  simp only [channelCountOps, List.append_assoc] at h
  refine QuietRun.recomputeIso (QuietRun.congr (h.wrSync.wrSync.act (a := .setNch n) rfl) ?_)
  simp [AgreesButWatch, actEffect, writeReg, regsWrite, phaseAfter_eq, fifoBulkAfter, fifoIsoAfter, writeEvents]

end

/-- The update neither reads nor changes the data stage and the sequencer's position, which the reply sets (R241). -/
def KeepsStage (f : State → State) : Prop :=
  ∀ (e : Option DataStage) (q : Seq) (s : State), f { s with ep0 := e, seq := q } = { f s with ep0 := e, seq := q }

theorem keepsStage_id : KeepsStage id := fun _ _ _ => rfl

theorem keepsStage_setVoltage (ch : Channel) (c : VoltageCode) : KeepsStage (afterSetVoltage ch c) := by
  intro e q s
  cases ch <;> rfl

theorem keepsStage_setChannelCount (n : ChannelCount) : KeepsStage (afterSetChannelCount n) := by
  intro e q s
  simp only [afterSetChannelCount, afterRecomputeIso]
  cases s.cfg.alt <;> rfl

/-- The reply to an update of the block with its payload arrived is the reply to the update of the block without it. -/
theorem KeepsStage.answered {f : State → State} (hf : KeepsStage f) (w : Word24) (r : ReplyKind) (d : DataStage)
    (l : List Input) {s : State} (hs : s.seq = .ready) :
    answered w r { f (withPayload d l s) with seq := .ready } = answered w r (f (afterPrologue (taken l s))) := by
  have hready : (afterPrologue (taken l s)).seq = .ready := (afterPrologue_seq _).trans hs
  have hstage := hf (some d) .ready (afterPrologue (taken l s))
  have hplain := hf (afterPrologue (taken l s)).ep0 .ready (afterPrologue (taken l s))
  rw [← hready] at hstage hplain
  rw [withPayload, hstage, hplain, hready]
  rfl

/-- A configuration command whose setting operation comes to the update `f` (R242 to R245). -/
theorem exec_configCommand_answered {i : Instr} {k : PayloadUse} {s : State} {d : DataStage} {l : List Input}
    {f : State → State} (hi : dispatchOps i s = configCommandOps k s) (hs : CanTake s) (hd : PayloadComes d l s)
    (hf : KeepsStage f)
    (hops : ∀ op m t, QuietRun op (payloadOps k d.first (withPayload d l s) ++ m) (withPayload d l s) t →
      QuietRun op m (f (withPayload d l s)) t) :
    ∃ t, exec i s = .next t ∧
      AgreesButWatch t (answered (setArg (encode s.params i) d.first) .handled (f (afterPrologue (taken l s)))) := by
  obtain ⟨t, hexec, hrun⟩ := exec_configCommand hi hs hd
  have hreply := (hops _ _ _ hrun).reply
  rw [hf.answered _ _ _ _ hs.2] at hreply
  exact ⟨t, hexec, hreply⟩

/-- A payload that is not accepted leaves the prologue and the reply (R134, R157). -/
theorem exec_configCommand_rejected {i : Instr} {k : PayloadUse} {s : State} {d : DataStage} {l : List Input}
    (hi : dispatchOps i s = configCommandOps k s) (hs : CanTake s) (hd : PayloadComes d l s)
    (hops : payloadOps k d.first (withPayload d l s) = []) :
    ∃ t, exec i s = .next t ∧
      AgreesButWatch t (answered (setArg (encode s.params i) d.first) .handled (afterPrologue (taken l s))) :=
  exec_configCommand_answered hi hs hd keepsStage_id fun _ _ _ h => by rwa [hops] at h

/-! ### VOLT0, VOLT1, NCH and RATE -/

theorem dispatchOps_volt (ch : Channel) (arg : Byte) (s : State) :
    dispatchOps (voltInstr ch arg) s = configCommandOps (.voltage ch) s := by
  cases ch <;> rfl

theorem encode_volt (P : Params) (ch : Channel) (arg : Byte) :
    encode P (voltInstr ch arg) = mkWord kindVendorOut (voltReq P ch) arg := by
  cases ch <;> rfl

/-- Settles O23: an accepted code sets its field, another leaves nothing to do before the reply. -/
theorem voltCommandSetsItsFieldOrRejects : Obligations.VoltCommandSetsItsFieldOrRejects := by
  intro ch arg s d l hs hd
  have hi := dispatchOps_volt ch arg s
  rw [← setArg_mkWord _ _ arg, ← encode_volt]
  cases hc : voltageCode d.first with
  | none => exact exec_configCommand_rejected hi hs hd (by simp only [payloadOps, setVoltageOps, hc])
  | some c =>
    refine exec_configCommand_answered hi hs hd (keepsStage_setVoltage ch c) fun op m t h => ?_
    simp only [payloadOps, setVoltageOps, hc, List.append_assoc] at h
    exact h.setVoltage

/-- Settles O26: an accepted count programs both FIFOs, another leaves nothing to do before the reply. -/
theorem nchCommandProgramsBothFifosOrRejects : Obligations.NchCommandProgramsBothFifosOrRejects := by
  intro arg s d l hs hd
  rw [← setArg_mkWord _ _ arg]
  cases hn : channelCount d.first with
  | none =>
    exact exec_configCommand_rejected (i := .nch arg) rfl hs hd (by simp only [payloadOps, setChannelCountOps, hn])
  | some n =>
    refine exec_configCommand_answered (i := .nch arg) rfl hs hd (keepsStage_setChannelCount n) fun op m t h => ?_
    simp only [payloadOps, setChannelCountOps, hn] at h
    exact h.setChannelCount

/-- Settles O27: an identifier in the table loads its profile, another leaves nothing to do before the reply. -/
theorem rateCommandLoadsTheProfileOrRejects : Obligations.RateCommandLoadsTheProfileOrRejects := by
  intro arg s d l hsize hs hd
  cases hp : lookupProfile s.params d.first with
  | none =>
    have hnone : lookupProfile (withPayload d l s).params d.first = none := by simpa [withPayload] using hp
    rw [← setArg_mkWord _ _ arg]
    exact exec_configCommand_rejected (i := .rate arg) rfl hs hd (by simp only [payloadOps, setSampleRateOps, hnone])
  | some p => exact exec_rate_accepted arg hsize hs hd hp

/-! ### A data stage that never comes -/

/-- A command the block takes with no input to come is followed from the start of its sequence. -/
theorem exec_quietRun_noInput (i : Instr) {s : State} (hs : CanTake s) (hl : s.inputs = []) :
    ∃ t, exec i s = .next t ∧ QuietRun (.dispatch (encode s.params i)) (dispatchOps i s) (taken [] s) t := by
  rw [taken, ← hl]
  exact exec_quietRun i hs (by rw [hl]; rfl)

/-- A configuration command with no data stage is held after its prologue (R244, R279). -/
theorem exec_configCommand_held {i : Instr} {k : PayloadUse} {s : State}
    (hi : dispatchOps i s = configCommandOps k s) (hs : CanTake s) (hep0 : s.ep0 = none) (hl : s.inputs = []) :
    ∃ t, exec i s = .next t ∧ step t = .next t ∧
      AgreesButWatch t { afterPrologue (taken [] s) with
        seq := .busy (.dispatch (encode s.params i)) [.wait .payload, .readPayload k, .reply .handled] } := by
  obtain ⟨t, hexec, hrun⟩ := exec_quietRun_noInput i hs hl
  rw [hi] at hrun
  have hheld := (QuietRun.prologue (s := taken [] s) hrun).hold (by simp [waitHolds, hep0]) (by simp)
  exact ⟨t, hexec, hheld⟩

/-- Settles O46: the wait for the payload holds the block, after the prologue or, for ACQ, at once. -/
theorem missingDataStageHoldsTheBlock : Obligations.MissingDataStageHoldsTheBlock := by
  intro arg s hs hep0 hl
  constructor
  · intro i k hik
    have hi : dispatchOps i s = configCommandOps k s := by
      simp only [List.mem_cons, Prod.mk.injEq, List.not_mem_nil, or_false] at hik
      obtain ⟨rfl, rfl⟩ | ⟨rfl, rfl⟩ | ⟨rfl, rfl⟩ | ⟨rfl, rfl⟩ := hik <;> rfl
    exact exec_configCommand_held hi hs hep0 hl
  · obtain ⟨t, hexec, hrun⟩ := exec_quietRun_noInput (.acq arg) hs hl
    exact ⟨t, hexec, QuietRun.hold hrun (by simp [waitHolds, hep0]) rfl⟩

end Sys2Proof.Machine
end

section
/-! PROOFS. The exceptions: the timer interrupt (R284), the main loop's turn (R282), and the suspend hook, followed from
the pending suspend to its hold or past WAKE (R288). -/

namespace Sys2Proof.Machine

/-! ### The timer interrupt (R284) -/

/-- Settles O15: a countdown of 1 is one that the tick brings to 0. -/
theorem timerTickDecaysTheIndicator : Obligations.TimerTickDecaysTheIndicator := by
  intro s hu
  by_cases hzero : s.ledcnt = 0
  · simp [envStep, hzero]
  · have hpos : 0 < s.ledcnt := Nat.pos_of_ne_zero hzero
    have hlast : s.ledcnt - 1 = 0 ↔ s.ledcnt = 1 := by omega
    simp only [envStep, hu, hpos, hzero, hlast, and_self, if_true, if_false]

/-! ### The main loop's turn (R282) -/

section
variable {s : State}

/-- A block at rest has a step for a pending request and for a pending suspend, and for nothing else. -/
theorem canMove_atRest (hs : CanTake s) (hb : s.booted = true) (hu : s.suspended = false) :
    canMove s = (s.pendingSetup.isSome || s.pendingSuspend) := by
  simp [canMove, hs.2, hb, hu]

/-- With nothing due, the turn of a block at rest is the main loop's. -/
theorem tick_mainLoop (hs : CanTake s) (hq : quiet s.inputs = true) (hc : canMove s = true) :
    tick s = some (mainLoopStep s) := by
  rw [tick, turn_thread hs.1 hq hc]
  simp only [threadStep, hs.2]

theorem mainLoopStep_request {w : Word24} {i : Instr} (hb : s.booted = true) (hw : s.pendingSetup = some w)
    (hi : decode s.params w = .instr i) :
    mainLoopStep s = { s with pendingSetup := none, seq := .busy (.dispatch w) (dispatchOps i s) } := by
  have htakes : mainLoopTakes s = .request i := by simp [mainLoopTakes, hb, hw, hi]
  have hword : encode s.params i = w := (encodeOfDecodeIsTheWord s.params w i hi).1
  simp only [mainLoopStep, htakes, takeRequest, takeWord, hword]

theorem mainLoopStep_foreign {w : Word24} (hb : s.booted = true) (hw : s.pendingSetup = some w)
    (hn : decode s.params w = .notForBlock) : mainLoopStep s = takeForeign w s := by
  simp [mainLoopStep, mainLoopTakes, hb, hw, hn]

theorem mainLoopStep_suspend (hb : s.booted = true) (hw : s.pendingSetup = none) (hp : s.pendingSuspend = true) :
    mainLoopStep s = beginSuspend s := by
  simp [mainLoopStep, mainLoopTakes, hb, hw, hp]

end

/-- Settles O10: what is pending is the main loop's to take, the request first; with nothing pending nothing moves. -/
theorem mainLoopTakesRequestThenSuspend : Obligations.MainLoopTakesRequestThenSuspend := by
  intro s hs hb hu hq
  have hc := canMove_atRest hs hb hu
  refine ⟨fun w i hw hi => ?_, fun w hw hn => ?_, fun hw hp => ?_, fun hw hp hl => ?_⟩
  · rw [tick_mainLoop hs hq (by simp [hc, hw]), mainLoopStep_request hb hw hi]
  · rw [tick_mainLoop hs hq (by simp [hc, hw]), mainLoopStep_foreign hb hw hn]
    rfl
  · rw [tick_mainLoop hs hq (by simp [hc, hp]), mainLoopStep_suspend hb hw hp]
    rfl
  · have hstuck : tick s = none := turn_stuck (by simp [hc, hw, hp]) hl
    exact ⟨hstuck, by rw [step_ready hs, hstuck, Option.elim_none]⟩

/-! ### The suspend hook (R288) -/

/-- The block in the suspend hook: the suspend is no longer pending, and it is in effect (R282, R288). -/
def inSuspend (s : State) : State := { s with pendingSuspend := false, suspended := true }

section
variable {op : Op} {l : List Micro} {s t : State}

/-- An input comes while a wait holds the block, and `u` is the block as its agent leaves it (R60). -/
theorem QuietRun.heldInput {c : WaitCond} {e : EnvEvent} {i : List Input} {u : State}
    (h : QuietRun op (.wait c :: l) s t) (hc : waitHolds c s = false)
    (hi : s.inputs = { due := .whenHeld, ev := e } :: i)
    (he : ∀ w, envStep e (placed op (.wait c :: l) w { s with inputs := i }) = placed op (.wait c :: l) w u)
    (hf : u.fault = none) (hq : quiet u.inputs = true) : QuietRun op (.wait c :: l) u t := by
  obtain ⟨hs, _, w, hrun⟩ := h
  have hheld : canMove (placed op (.wait c :: l) w s) = false := by cases c <;> exact hc
  have hcame := hrun.after_turn rfl (turn_held (s := placed op (.wait c :: l) w s) hs hheld hi)
  exact ⟨hf, hq, w, he w ▸ hcame⟩

/-- With nothing left to do the run is over. -/
theorem QuietRun.done (h : QuietRun op [] s t) : AgreesButWatch t { s with seq := .ready } := by
  obtain ⟨_, _, w, hrun⟩ := h
  rw [hrun.eq_of_ready rfl]
  rfl

/-- A pending suspend is taken when no request is pending, and the step comes to the hook's wait for WAKE. -/
theorem step_suspend (hs : CanTake s) (hb : s.booted = true) (hu : s.suspended = false) (hw : s.pendingSetup = none)
    (hp : s.pendingSuspend = true) (hq : quiet s.inputs = true) :
    ∃ t, step s = .next t ∧ QuietRun .suspendHook [.wait .wake, .act .resume] (inSuspend s) t := by
  have hc : canMove s = true := by simp [canMove_atRest hs hb hu, hp]
  have hstep := step_mainLoop hs hc (dueInput_of_quiet hq)
  have hcost := seqCost_mainLoopStep hs.2
  rw [counted_of_quiet hq, mainLoopStep_suspend hb hw hp] at hstep
  rw [mainLoopStep_suspend hb hw hp] at hcost
  have hrun : RunsTo (beginSuspend s) (carryOn (beginSuspend s)) :=
    ⟨fuel _, by simp only [workLeft, fuel]; omega, rfl⟩
  have hhook : QuietRun .suspendHook suspendHookOps { s with pendingSuspend := false } _ :=
    ⟨hs.1, hq, s.watch, hrun⟩
  exact ⟨_, hstep, QuietRun.act (a := .suspend) hhook rfl⟩

/-- The timer is not stepped while the block is suspended (R288). -/
theorem envStep_timerTick_suspended (hu : s.suspended = true) : envStep .timerTick s = s := by
  simp [envStep, hu]

end

/-- Settles O22: held in the hook, the block takes a tick that changes nothing and the WAKE that lets it resume; with no
input to come it is held for good. -/
theorem suspendHookHoldsUntilWake : Obligations.SuspendHookHoldsUntilWake := by
  constructor
  · intro s l hs hb hu hwake hw hp hq hl
    obtain ⟨t, hstep, hheld⟩ := step_suspend hs hb hu hw hp (by rw [hl]; rfl)
    have hticked := hheld.heldInput hwake hl (fun _ => envStep_timerTick_suspended rfl) hs.1 rfl
    have hwoken :=
      hticked.heldInput (u := { inSuspend s with wake := true, inputs := l }) hwake rfl (fun _ => rfl) hs.1 hq
    have hresumed := ((hwoken.wait rfl).act (a := .resume) rfl).done
    refine ⟨t, hstep, hresumed.trans ?_⟩
    simp [actEffect, inSuspend, hs.2, hu, hwake]
  · intro s hs hb hu hwake hw hp hl
    obtain ⟨t, hstep, hheld⟩ := step_suspend hs hb hu hw hp (by rw [hl]; rfl)
    exact ⟨t, hstep, hheld.hold hwake hl⟩

end Sys2Proof.Machine
end

section
/-! PROOFS. Power-on reset (R310), and initialization followed from its start to its last line (R311, R312). -/

namespace Sys2Proof.Machine

/-! ### Power-on (R310) -/

/-- The spec's default parameters meet their constraints (R22). -/
theorem defaultParams_ok : defaultParams.Ok := by decide

/-- Settles O6: the fields read off the power-on state, and a faulted block answers its fault, no next state. -/
theorem powerOnState : Obligations.PowerOnState := by
  refine ⟨fun P sp => ?_, ⟨defaultParams, .high, defaultParams_ok, rfl⟩, fun s t hf => ?_⟩
  · simp [State.powerOn, Regs.powerOn, gate]
  · obtain ⟨f, hfault⟩ := Option.ne_none_iff_exists'.mp hf
    rw [step_faulted hfault]
    exact stopped_ne_next f t

/-- At power-on initialization has not run, so that nothing is asked of the configuration yet. -/
theorem blockInv_powerOn {P : Params} (hP : P.Ok) (sp : Speed) : BlockInv (State.powerOn P sp) where
  params := hP
  memory := pmOk_powerOn P sp
  indicator := by simp [IndicatorOk, State.powerOn]
  unbooted _ := ⟨rfl, rfl, rfl⟩
  rests := nofun
  applied := nofun

/-- Settles O56: `State.reset` is a power-on state. -/
theorem blockInvariantAtReset : Obligations.BlockInvariantAtReset :=
  ⟨fun _ sp hP => blockInv_powerOn hP sp, blockInv_powerOn defaultParams_ok .high⟩

/-! ### Initialization, as a state update (R311) -/

/-- The profile initialization loads is the one at 1000 kSa/s (R151). -/
theorem lookupProfile_one_rate {P : Params} (hP : P.Ok) :
    ∃ p, lookupProfile P 1 = some p ∧ p.id = 1 ∧ p.rateKsps = 1000 := by
  obtain ⟨_, _, _, _, _, _, _, _, _, htable, _⟩ := hP
  have ⟨_, ⟨p, hmem, hid, hrate⟩, _⟩ := htable
  exact ⟨p, (lookupProfile_eq_some htable).mpr ⟨hmem, hid⟩, hid, hrate⟩

/-- The state `initialize()` leaves, `p` being the profile it loads: the default configuration, applied by its three
calls (R311). -/
def afterInitialize (p : Profile) (s : State) : State :=
  { afterSelectInterface .bulk (afterSetSampleRate p (afterSetChannelCount .two { s with cfg := defaultConfig })) with
    booted := true }

/-- `initialize()` (R311). -/
theorem QuietRun.initialize {op : Op} {p : Profile} {s t : State}
    (h : QuietRun op (initializeOps s.params (some p)) s t) (hsize : 120 ≤ s.params.progMemBytes) :
    AgreesButWatch t { afterInitialize p s with seq := .ready } := by
  simp only [initializeOps, List.append_assoc] at h
  have hcounted := (QuietRun.act (a := .setDefaults) h rfl).setChannelCount
  have hloaded := hcounted.loadProfile hsize
  exact (QuietRun.act (a := .finishInit) hloaded.selectInterface rfl).done

/-- What the main loop takes in a block at rest, the step carries on (R240, R282). -/
theorem step_runsTo {s : State} (hs : CanTake s) (hq : quiet s.inputs = true) (hc : canMove s = true) :
    ∃ t, step s = .next t ∧ RunsTo (mainLoopStep s) t := by
  have hstep := step_mainLoop hs hc (dueInput_of_quiet hq)
  have hcost := seqCost_mainLoopStep hs.2
  rw [counted_of_quiet hq] at hstep
  exact ⟨_, hstep, fuel _, by simp only [workLeft, fuel]; omega, rfl⟩

/-- The step of a block that initialization has not run in runs it (R311). -/
theorem step_initialize {p : Profile} {s : State} (hP : s.params.Ok) (hp : lookupProfile s.params 1 = some p)
    (hs : CanTake s) (hb : s.booted = false) (hu : s.suspended = false) (hq : quiet s.inputs = true) :
    ∃ t, step s = .next t ∧ AgreesButWatch t (afterInitialize p s) := by
  have hbegin : mainLoopStep s = placed .initialization (initializeOps s.params (some p)) s.watch s := by
    have htakes : mainLoopTakes s = .initialization := by simp [mainLoopTakes, hb]
    simp only [mainLoopStep, htakes, beginInitialize, hp]
    rfl
  obtain ⟨t, hstep, hrun⟩ := step_runsTo hs hq (by simp [canMove, hs.2, hb, hu])
  rw [hbegin] at hrun
  have hinit := QuietRun.initialize ⟨hs.1, hq, _, hrun⟩ (progMemBytes_of_ok hP)
  have hready : (afterInitialize p s).seq = .ready := hs.2
  rw [← hready] at hinit
  exact ⟨t, hstep, hinit⟩

/-- Settles O7: the first step after power-on runs initialization, whose three calls leave the table; the image reads
back as a load leaves it. -/
theorem initializationLeavesTheTable : Obligations.InitializationLeavesTheTable := by
  intro P sp g c m k hP
  obtain ⟨p, hp, hid, hrate⟩ := lookupProfile_one_rate hP
  obtain ⟨t, hstep, ht⟩ := step_initialize
    (s := { State.powerOn P sp with regs := { g with sw := P.switchReset }, cfg := c, pm := m, pmPtr := k })
    hP hp ⟨rfl, rfl⟩ rfl rfl rfl
  obtain ⟨w, rfl⟩ : ∃ w, t = { afterInitialize p _ with watch := w } := ⟨t.watch, ht⟩
  obtain ⟨himage, hzero, hrest⟩ := read_programImage p m
  have hcfg : ({ rateId := p.id, rateKsps := p.rateKsps, nch := .two, alt := .bulk } : AcqConfig) = defaultConfig := by
    rw [hid, hrate]
    rfl
  exact ⟨_, p, hstep, hp, rfl, rfl, rfl, hcfg, rfl, rfl, rfl, rfl, rfl, himage, hzero, hrest, rfl, rfl, rfl,
    rfl, rfl, rfl, rfl⟩

end Sys2Proof.Machine
end
